-- ==== Sys2Proof/Word.lean ====
section
/-! DEFINITION. The two word types of the block: a byte of a packet and a 32-bit word on a port (spec 20 R65, 30 R80). -/

namespace Sys2Proof

/-- A byte of the caller's stream or of a packet buffer, unsigned (00 R17). -/
abbrev Byte := BitVec 8

/-- A command word, a response value or a statistics counter (30 R80, R85; 10 R35). -/
abbrev Word := BitVec 32

end Sys2Proof
end

