-- ==== Sys2Proof/Syntax.lean ====
section
/-! DEFINITION. The eleven commands of a caller port, one constructor per row of spec/opcode_table.json (30 R81, R82). -/

namespace Sys2Proof

/-- A command. An operand has the width of its field in the command word (30 R82); the payload bytes of WRITE are not part
of the word, they stay in the port's `WDATA` (30 R84). -/
inductive Instr where
  /-- PUT `b`: append one byte (41 R131). -/
  | put (b : BitVec 8)
  /-- WRITE `n`: append the `n` payload bytes of the port (41 R132). -/
  | write (n : BitVec 24)
  /-- FLUSH: enqueue the fill packet (41 R133). -/
  | flush
  /-- GET: take one received byte (42 R162). -/
  | get
  /-- READ `maxN`: take up to `maxN` received bytes (42 R163). -/
  | read (maxN : BitVec 24)
  /-- AVAIL: how many received bytes can be read (42 R164). -/
  | avail
  /-- START `mode`: leave STOPPED; mode code 3 is illegal (43 R180). -/
  | start (mode : BitVec 2)
  /-- STOP: leave the Ready states (43 R182). -/
  | stop
  /-- RESET: leave ERROR (43 R184). -/
  | reset
  /-- STATS `sel`: read a statistics counter (43 R186). -/
  | stats (sel : BitVec 2)
  /-- STATUS `sel`: read the control state or an occupancy; selectors 6 and 7 are illegal (43 R187). -/
  | status (sel : BitVec 3)
deriving DecidableEq, Repr

end Sys2Proof
end

