-- ==== Sys2Proof/Config.lean ====
section
/-! DEFINITION. What an implementation fixes (spec 00 R6), what the environment may do at a step (00 R8, R14), and the free values the spec leaves open. -/

namespace Sys2Proof

/-- The parameters of 00 R6 that the spec leaves OPEN. A configuration is fixed at power-on.
DESIGN CHOICE (log 1): the configuration is carried in the machine's state, so that a claim is for every configuration. -/
structure Config where
  /-- `P`, the number of packet slots. -/
  slots : Nat
  /-- `Qtx`, the capacity of the transmit queue. -/
  qtx : Nat
  /-- `Qrx`, the capacity of the receive queue. -/
  qrx : Nat
  /-- `NPORT`, the number of caller command ports. -/
  nport : Nat
  /-- `DYNPD`: the length of a received packet is read from the radio. -/
  dynpd : Bool
  /-- `PAYLOAD_SIZE`, the length of a received packet when `DYNPD` is false. -/
  payloadSize : Nat
  /-- `ACK_PIPE`, the pipe of acknowledgement payloads. -/
  ackPipe : Nat
  /-- `STOP_POLL_LIMIT`; `none` is `INF`. -/
  stopPollLimit : Option Nat
deriving DecidableEq, Repr

/-- `PKT`, the packet data capacity in bytes (00 R6, R18; log 17). -/
abbrev Config.pkt : Nat := 32

/-- `NPIPE`, the number of radio pipes (00 R6, R18; log 17). -/
abbrev Config.npipe : Nat := 6

/-- `REQUEST_ACK`, the value of `requestAck` passed to `sendPacket` (00 R6, decision D24). -/
abbrev Config.requestAck : Bool := true

/-- The configuration `CFG` of the spec's test vectors (95), which State.reset takes (DESIGN CHOICE, log 1). -/
def Config.standard : Config where
  slots := 10
  qtx := 3
  qrx := 3
  nport := 2
  dynpd := true
  payloadSize := 32
  ackPipe := 0
  stopPollLimit := some 4

/-- The record `pollStatus` answers (30 R96). -/
structure RadioStatus where
  dataSent : Bool := false
  maxRetriesExceeded : Bool := false
  dataReceived : Bool := false
  receivedPipeNumber : BitVec 3 := 0
  txFifoFull : Bool := false
deriving DecidableEq, Repr, Inhabited

/-- The environment's draw for one radio transaction: what the radio answers if the transaction asks a boolean
(`sendPacket`, `transmitFifoEmpty`, `transmitFifoFull`), a status, a length (0..255, 30 R95), or a payload, of which a
transaction that asks for `n` bytes gets the first `n` (log 18). Under no law (00 R14). -/
structure RadioAnswer where
  flag : Bool := false
  status : RadioStatus := {}
  length : Byte := 0
  payload : Vector Byte 32 := Vector.replicate 32 0
deriving DecidableEq, Repr, Inhabited

/-- One choice of the arbiter, with the environment's input where the agent is the environment (00 R8, R9). -/
inductive Event where
  /-- A step of `PORT[p]`. -/
  | port (p : Nat)
  /-- A step of the event loop. -/
  | el
  /-- A pulse of the radio's interrupt line. -/
  | irq
  /-- The host places the word and its payload bytes into port `p`. -/
  | host (p : Nat) (word : Word) (payload : List Byte)
  /-- The power-on reset input. -/
  | rst
deriving DecidableEq, Repr, Inhabited

/-- FREE VALUE: the arbiter's choice number `n` where no script gives it (00 R9, 93 #17; log 2). -/
opaque Config.freeEvent : Nat → Event

/-- FREE VALUE: the radio's answer number `n` where no script gives it (00 R14, 93 #7; log 3). -/
opaque Config.freeAnswer : Nat → RadioAnswer

/-- FREE VALUE: `LEN[h]` after the `RST` step number `epoch`, within 0..PKT (10 R29, 93 #15; log 4). -/
opaque Config.freeLen : (epoch h : Nat) → Fin 33

/-- FREE VALUE: the byte at a packet-memory address that nothing has written since the `RST` step number `epoch`
(10 R30, 93 #15; log 5). -/
opaque Config.freeByte : (epoch addr : Nat) → Byte

/-- FREE VALUE: the response value for a count that does not fit 32 bits, which the spec does not state (log 10). -/
opaque Config.wideValue : Nat → Word

end Sys2Proof
end

