-- ==== Sys2Proof/WellFormed.lean ====
section
/-! DEFINITION. The checks a command (30 R82, R84) and a configuration (00 R7) must pass. -/

namespace Sys2Proof

/-- The constraints of the last column of 30 R82 that the operand widths do not already give. -/
def Instr.wellFormed : Instr → Bool
  | .start mode => mode != 3
  | .status sel => sel.ule 5
  | .put _ | .write _ | .flush | .get | .read _ | .avail | .stop | .reset | .stats _ => true

/-- How many payload bytes follow the command's word on its port (30 R84). -/
def Instr.payloadLength : Instr → Nat
  | .write n => n.toNat
  | .put _ | .flush | .get | .read _ | .avail | .start _ | .stop | .reset | .stats _ | .status _ => 0

/-- The bounds of 00 R7, and the range `>= 1` that 00 R6 gives `STOP_POLL_LIMIT` (DEDUCED, log 12). -/
def Config.wellFormed (c : Config) : Bool :=
  decide (c.qtx + c.qrx + 2 ≤ c.slots) && decide (1 ≤ c.qtx) && decide (1 ≤ c.qrx) && decide (c.qrx < 67108864)
    && decide (1 ≤ c.nport) && decide (1 ≤ c.payloadSize) && decide (c.payloadSize ≤ Config.pkt)
    && decide (c.ackPipe < Config.npipe)
    && (match c.stopPollLimit with | none => true | some l => decide (1 ≤ l))

end Sys2Proof
end

