-- ==== Sys2Proof/Decode.lean ====
section
/-! DEFINITION. The decoder of command words (30 R88), total on every 32-bit word, and the encoder (30 R80 to R82). -/

namespace Sys2Proof

/-- Why a word is illegal (30 R83). -/
inductive Reject where
  /-- `OP` is 0x0 or 0xC to 0xF. -/
  | opcode
  /-- `RSV` is not zero. -/
  | reserved
  /-- The operand breaks the constraint of 30 R82. -/
  | operand
deriving DecidableEq, Repr

/-- What the decoder answers: a command, or ILLEGAL with the reason. -/
inductive Decoded where
  | ok (i : Instr)
  | illegal (r : Reject)
deriving DecidableEq, Repr

/-- `OP = w[31:28]` (30 R80). -/
def Word.op (w : Word) : BitVec 4 := w.extractLsb' 28 4

/-- `RSV = w[27:24]` (30 R80). -/
def Word.rsv (w : Word) : BitVec 4 := w.extractLsb' 24 4

/-- `ARG = w[23:0]` (30 R80). -/
def Word.arg (w : Word) : BitVec 24 := w.extractLsb' 0 24

/-- The decode procedure of 30 R88. -/
def decode (w : Word) : Decoded :=
  let arg := Word.arg w
  if Word.rsv w ≠ 0 then .illegal .reserved
  else match (Word.op w).toNat with
    | 1 => if arg.extractLsb' 8 16 = 0 then .ok (.put (arg.extractLsb' 0 8)) else .illegal .operand
    | 2 => .ok (.write arg)
    | 3 => if arg = 0 then .ok .flush else .illegal .operand
    | 4 => if arg = 0 then .ok .get else .illegal .operand
    | 5 => .ok (.read arg)
    | 6 => if arg = 0 then .ok .avail else .illegal .operand
    | 7 => if arg.extractLsb' 2 22 = 0 ∧ arg.extractLsb' 0 2 ≠ 3 then .ok (.start (arg.extractLsb' 0 2)) else .illegal .operand
    | 8 => if arg = 0 then .ok .stop else .illegal .operand
    | 9 => if arg = 0 then .ok .reset else .illegal .operand
    | 10 => if arg.extractLsb' 2 22 = 0 then .ok (.stats (arg.extractLsb' 0 2)) else .illegal .operand
    | 11 => if arg.extractLsb' 3 21 = 0 ∧ (arg.extractLsb' 0 3).toNat ≤ 5 then .ok (.status (arg.extractLsb' 0 3)) else .illegal .operand
    | _ => .illegal .opcode

/-- A command word from its opcode and operand, with `RSV = 0` (30 R80). -/
def word (op : BitVec 4) (arg : BitVec 24) : Word := op ++ (0 : BitVec 4) ++ arg

/-- The word of a command (30 R81, R82). -/
def encode : Instr → Word
  | .put b => word 1 (b.setWidth 24)
  | .write n => word 2 n
  | .flush => word 3 0
  | .get => word 4 0
  | .read maxN => word 5 maxN
  | .avail => word 6 0
  | .start mode => word 7 (mode.setWidth 24)
  | .stop => word 8 0
  | .reset => word 9 0
  | .stats sel => word 10 (sel.setWidth 24)
  | .status sel => word 11 (sel.setWidth 24)

/-- The command word decodes to a command of the byte stream, which STOP and Error entry release (43 R183). -/
def Decoded.byteStream : Decoded → Bool
  | .ok (.put _) | .ok (.write _) | .ok .flush | .ok .get | .ok (.read _) | .ok .avail => true
  | .ok (.start _) | .ok .stop | .ok .reset | .ok (.stats _) | .ok (.status _) | .illegal _ => false

/-- The command word decodes to WRITE. -/
def Decoded.isWrite : Decoded → Bool
  | .ok (.write _) => true
  | .ok (.put _) | .ok .flush | .ok .get | .ok (.read _) | .ok .avail => false
  | .ok (.start _) | .ok .stop | .ok .reset | .ok (.stats _) | .ok (.status _) | .illegal _ => false

/-- How many payload bytes a host must present with the word; an illegal word carries none (30 R84). -/
def Decoded.payloadLength : Decoded → Nat
  | .ok i => i.payloadLength
  | .illegal _ => 0

/-- The command the decoder reads from a table row's word: a word of the table is one 32-bit command word, bit 0 its least
significant bit; the payload bytes of a WRITE are no part of it. -/
def decodeTableWord (nbits w : Nat) : Option Instr :=
  match decode (BitVec.ofNat 32 (w % 2 ^ nbits)) with
  | .ok i => some i
  | .illegal _ => none

end Sys2Proof
end

