-- ==== Sys2Proof/Machine/State.lean ====
section
/-! DEFINITION. The state of the block: every register of spec 10, the caller ports, the observations of 00 R12, and the model's own script of the environment; and the state after power-on. -/

namespace Sys2Proof.Machine

/-- `STATE`, the adapter state (10 R20). -/
inductive AdapterState where
  | stopped | starting | receiving | transmitting | stopping | error
deriving DecidableEq, Repr

/-- `ROLE`, the last half-duplex role the radio was commanded into (10 R21). -/
inductive Role where
  | prx | ptx
deriving DecidableEq, Repr

/-- `MODE`, the configured mode (10 R22). -/
inductive Mode where
  | ptxOnly | prxOnly | adhoc
deriving DecidableEq, Repr

/-- The fatal fault causes; `ERRCAUSE` is NONE or one of them (10 R23, 60 R262). -/
inductive Cause where
  | poolExhausted | doubleFree | foreignHandle | queueOverflow | queueUnderflow
deriving DecidableEq, Repr

/-- `EVT`, one coalescing bit per signal of the event loop (10 R24). -/
structure Evt where
  stop : Bool := false
  irq : Bool := false
  txp : Bool := false
  fetch : Bool := false
deriving DecidableEq, Repr

/-- `OWNER[h]`, the one structure that references slot `h` (10 R28). -/
inductive Owner where
  | free | fill | txq | inflight | rxq | drain | loading
deriving DecidableEq, Repr

/-- The phase of a PUT or WRITE in a port (10 R36). -/
inductive Phase where
  | a | b
deriving DecidableEq, Repr

/-- `RSTAT`, the status of a response (30 R86). -/
inductive Rstat where
  | ok | notReady | rejected | fatal | illegal
deriving DecidableEq, Repr

/-- A response (30 R85): status, value, and for READ the returned bytes. -/
structure Response where
  status : Rstat
  value : Word
  data : List Byte
deriving DecidableEq, Repr

/-- A caller port's slot (10 R36), with the responses it has delivered, oldest first (00 R12 (a)). -/
structure Port where
  busy : Bool
  cmd : Word
  wdata : List Byte
  phase : Phase
  done : Nat
  replies : List Response
deriving DecidableEq, Repr

/-- A port that holds no command and has delivered no response. `CMD`, `WDATA`, `PHASE` and `DONE` of an idle port are
unspecified and never read (10 R36); these values are the model's (DESIGN CHOICE, log 6). -/
def Port.idle : Port where
  busy := false
  cmd := 0
  wdata := []
  phase := .a
  done := 0
  replies := []

/-- One entry of the radio trace: a radio transaction with its arguments and its answer (30 R95). -/
inductive RadioTxn where
  | beginListening
  | becomeTx
  | send (data : List Byte) (length : Nat) (requestAck : Bool) (submitted : Bool)
  | resend
  | poll (resetFlags : Bool) (answer : RadioStatus)
  | rxLen (length : Byte)
  | rxPayload (length : Nat) (bytes : List Byte)
  | ackPayload (pipe : Nat) (data : List Byte) (length : Nat)
  | txEmpty (answer : Bool)
  | txFull (answer : Bool)
deriving DecidableEq, Repr

/-- Why the machine stops where a rule would use packet memory in a way the spec says no rule does (20 R61, R62; 42 R161;
log 8). The block's own fatal faults are no member: they lead to the state ERROR (60 R265). -/
inductive Fault where
  /-- A handle that is NONE or not below `P` is used as a slot (20 R62). Raised by the slot, memory and queue operations,
  and by FLUSH_CORE, PUT and WRITE with `FILL = NONE`. Safe: the machine stops where the spec gives no effect. -/
  | noSlot
  /-- A byte index of `PKT` or more is used (20 R61). Raised by MemRead and MemWrite. Safe: as above. -/
  | noByte
  /-- CONSUME is called with no byte or with more bytes than the drain packet has left (42 R161). Raised by GET and READ.
  Safe: as above. -/
  | drainRange
deriving DecidableEq, Repr

/-- Why the model refuses a step. -/
inductive Refusal where
  /-- The instruction has no meaning yet. Raised by exec only. Safe. -/
  | notModelled (mnemonic : String)
  /-- The configuration is ill-formed: no machine is built for it (00 R7). Raised by step. Safe. -/
  | illFormedConfig
  /-- The host presents a word with a payload that is not the command's own (30 R84, 93 #21; log 7). Raised by a HOST step. Safe. -/
  | payloadLength
deriving DecidableEq, Repr

/-- The state of the machine. -/
structure State where
  /-- The configuration (00 R6), which no step changes (log 1). -/
  cfg : Config
  /-- `STATE` (10 R20). -/
  state : AdapterState
  /-- `ROLE` (10 R21). -/
  role : Role
  /-- `MODE` (10 R22). -/
  mode : Mode
  /-- `ERRCAUSE`, `none` for NONE (10 R23). -/
  errCause : Option Cause
  /-- `EVT` (10 R24). -/
  evt : Evt
  /-- `REUSE` (10 R25). -/
  reuse : Bool
  /-- `RXDEF` (10 R26). -/
  rxdef : Bool
  /-- `STOPPOLLS` (10 R27). -/
  stopPolls : Nat
  /-- `OWNER[h]`, in slot order (10 R28). -/
  owner : List Owner
  /-- `LEN[h]`, in slot order (10 R29). -/
  len : List Nat
  /-- `DATA[h][i]`, the cells written since the last `RST`, keyed by `h * 32 + i` (10 R30; log 19). -/
  data : List Host.Cell
  /-- `TXQ`, oldest first (10 R31). -/
  txq : List Nat
  /-- `RXQ`, oldest first (10 R32). -/
  rxq : List Nat
  /-- `FILL` (10 R33). -/
  fill : Option Nat
  /-- `FILLPOS` (10 R33). -/
  fillPos : Nat
  /-- `DRAIN` (10 R34). -/
  drain : Option Nat
  /-- `DRAINPOS` (10 R34). -/
  drainPos : Nat
  /-- `CNT_IRQ` (10 R35). -/
  cntIrq : Word
  /-- `CNT_SENT` (10 R35). -/
  cntSent : Word
  /-- `CNT_MAXRT` (10 R35). -/
  cntMaxRt : Word
  /-- `CNT_RX` (10 R35). -/
  cntRx : Word
  /-- The caller ports, in port order (10 R36). -/
  ports : List Port
  /-- `RTRACE`, oldest first (10 R42). -/
  rtrace : List RadioTxn
  /-- The MODEL's own: the port whose step this is (log 13). -/
  cur : Nat
  /-- The MODEL's own: the scripted choices of the arbiter, next first (log 2). -/
  schedule : List Event
  /-- The MODEL's own: how many free choices of the arbiter have been made (log 2). -/
  ticks : Nat
  /-- The MODEL's own: the scripted radio answers, next first (log 3). -/
  answers : List RadioAnswer
  /-- The MODEL's own: how many free radio answers have been drawn (log 3). -/
  draws : Nat
  /-- The MODEL's own: how many `RST` steps there have been (log 4, log 5). -/
  epoch : Nat
deriving DecidableEq, Repr

/-- The block with configuration `c` right after power-on (10 R43, 70 R290). `LEN` is unspecified; 0 is the model's (log 4). -/
def State.powerOn (c : Config) : State where
  cfg := c
  state := .stopped
  role := .prx
  mode := .ptxOnly
  errCause := none
  evt := {}
  reuse := false
  rxdef := false
  stopPolls := 0
  owner := List.replicate c.slots .free
  len := List.replicate c.slots 0
  data := []
  txq := []
  rxq := []
  fill := none
  fillPos := 0
  drain := none
  drainPos := 0
  cntIrq := 0
  cntSent := 0
  cntMaxRt := 0
  cntRx := 0
  ports := List.replicate c.nport Port.idle
  rtrace := []
  cur := 0
  schedule := []
  ticks := 0
  answers := []
  draws := 0
  epoch := 0

/-- The machine right after power-on reset, in the configuration of the spec's test vectors (log 1). -/
def State.reset : State := State.powerOn Config.standard

end Sys2Proof.Machine
end

