-- ==== Sys2Proof/Machine/Ops.lean ====
section
/-! DEFINITION. The named operations of a step: results and faults, packet memory, the pool, the queues, the ports, the radio port, and Error entry. -/

namespace Sys2Proof.Machine

/-! ## Results -/

/-- How an action inside a step ends: normally, by `raise Fatal(cause)` with the writes made before it (00 R13), or by a use of
packet memory that the spec says no rule makes (log 8). -/
inductive Res (α : Type) where
  | ok (a : α) (s : State)
  | fatal (c : Cause) (s : State)
  | stop (f : Fault)

/-- The rest of a step after an action: done only where the action ended normally (00 R13). -/
def Res.bind {α β : Type} (r : Res α) (k : α → State → Res β) : Res β :=
  match r with
  | .ok a s => k a s
  | .fatal c s => .fatal c s
  | .stop f => .stop f

/-! ## Packet memory (20 R60, R61) -/

/-- The key of byte `i` of slot `h` (log 19). -/
def slotAddr (h i : Nat) : Nat := h * 32 + i

/-- The byte listed for an address, if one is: an unlisted address has been written by nothing since the last `RST`. -/
def Memory.read? : List Host.Cell → Nat → Option Byte
  | [], _ => none
  | (k, b) :: rest, a => if k = a then some b else Memory.read? rest a

/-- The memory with address `a` holding `b`, in the canonical form. -/
def Memory.write : List Host.Cell → Nat → Byte → List Host.Cell
  | [], a, b => [(a, b)]
  | (k, c) :: rest, a, b =>
    if a < k then (a, b) :: (k, c) :: rest
    else if a = k then (a, b) :: rest
    else (k, c) :: Memory.write rest a b

/-- The canonical form of memory: addresses strictly rising. An unlisted address reads as no value, so every cell may be listed. -/
abbrev Memory.wf (m : List Host.Cell) : Prop := m.Pairwise fun x y => x.1 < y.1

/-- `DATA[h][i]`: the byte last written, and a free value where nothing has written since the last `RST` (10 R30; log 5). -/
def State.byteAt (s : State) (h i : Nat) : Byte :=
  (Memory.read? s.data (slotAddr h i)).getD (Config.freeByte s.epoch (slotAddr h i))

/-- MemRead(h, i) (20 R61). -/
def memRead (h i : Nat) (s : State) : Res Byte :=
  if ¬ h < s.cfg.slots then .stop .noSlot
  else if ¬ i < Config.pkt then .stop .noByte
  else .ok (s.byteAt h i) s

/-- MemWrite(h, i, b) (20 R61). -/
def memWrite (h i : Nat) (b : Byte) (s : State) : Res Unit :=
  if ¬ h < s.cfg.slots then .stop .noSlot
  else if ¬ i < Config.pkt then .stop .noByte
  else .ok () { s with data := Memory.write s.data (slotAddr h i) b }

/-- MemWrite of a list of bytes in increasing index, from index `i` of slot `h` (20 R61). -/
def writeBytes (h : Nat) : (i : Nat) → List Byte → State → Res Unit
  | _, [], s => .ok () s
  | i, b :: bs, s => (memWrite h i b s).bind fun _ s => writeBytes h (i + 1) bs s

/-- MemRead of `n` bytes in increasing index, from index `i` of slot `h` (20 R61). -/
def readBytes (h : Nat) : (i n : Nat) → State → Res (List Byte)
  | _, 0, s => .ok [] s
  | i, n + 1, s =>
    (memRead h i s).bind fun b s => (readBytes h (i + 1) n s).bind fun bs s => .ok (b :: bs) s

/-- `LEN[h]` (10 R29). -/
def State.lenAt (s : State) (h : Nat) : Nat := s.len.getD h 0

/-- `LEN[h] <- n` (10 R29). -/
def setLen (h n : Nat) (s : State) : Res Unit :=
  if ¬ h < s.cfg.slots then .stop .noSlot else .ok () { s with len := s.len.set h n }

/-- `OWNER[h]` (10 R28). -/
def State.ownerAt (s : State) (h : Nat) : Owner := s.owner.getD h .free

/-- The state with `OWNER[h] <- tag` (10 R28). -/
def State.withOwner (s : State) (h : Nat) (tag : Owner) : State := { s with owner := s.owner.set h tag }

/-- `OWNER[h] <- tag` (10 R28). -/
def setOwner (h : Nat) (tag : Owner) (s : State) : Res Unit :=
  if ¬ h < s.cfg.slots then .stop .noSlot else .ok () (s.withOwner h tag)

/-! ## The pool (40 R112 to R115) -/

/-- `FREECOUNT` (00 R16). -/
def State.freeCount (s : State) : Nat := s.owner.count .free

/-- The lowest-numbered free slot (40 R112). -/
def State.firstFree (s : State) : Option Nat := s.owner.findIdx? fun o => o = .free

/-- PoolAlloc(tag) (40 R112). -/
def poolAlloc (tag : Owner) (s : State) : Res Nat :=
  match s.firstFree with
  | none => .fatal .poolExhausted s
  | some h => .ok h (s.withOwner h tag)

/-- PoolTryAlloc(tag) (40 R113). -/
def poolTryAlloc (tag : Owner) (s : State) : Res (Option Nat) :=
  if s.freeCount = 0 then .ok none s else (poolAlloc tag s).bind fun h s => .ok (some h) s

/-- PoolFree(h) (40 R114): FOREIGN_HANDLE is checked before DOUBLE_FREE (60 R263). -/
def poolFree (handle : Option Nat) (s : State) : Res Unit :=
  match handle with
  | none => .fatal .foreignHandle s
  | some h =>
    if ¬ h < s.cfg.slots then .fatal .foreignHandle s
    else if s.ownerAt h = .free then .fatal .doubleFree s
    else .ok () (s.withOwner h .free)

/-- PoolDestroy() (40 R115). -/
def State.poolDestroy (s : State) : State :=
  { s with
    owner := List.replicate s.cfg.slots .free
    txq := []
    rxq := []
    fill := none
    fillPos := 0
    drain := none
    drainPos := 0 }

/-! ## The queues (40 R119) -/

/-- One of the two queues. -/
inductive Queue where
  | tx | rx
deriving DecidableEq, Repr

/-- The handles of a queue, oldest first. -/
def State.queue (s : State) : Queue → List Nat
  | .tx => s.txq
  | .rx => s.rxq

/-- The capacity of a queue (00 R6). -/
def State.capacity (s : State) : Queue → Nat
  | .tx => s.cfg.qtx
  | .rx => s.cfg.qrx

/-- The state with a queue replaced. -/
def State.withQueue (s : State) (q : Queue) (hs : List Nat) : State :=
  match q with
  | .tx => { s with txq := hs }
  | .rx => { s with rxq := hs }

/-- Enqueue(Q, cap, h, tag) (40 R119). -/
def enqueue (q : Queue) (h : Nat) (tag : Owner) (s : State) : Res Unit :=
  if (s.queue q).length = s.capacity q then .fatal .queueOverflow s
  else setOwner h tag (s.withQueue q (s.queue q ++ [h]))

/-- Dequeue(Q, tag) (40 R119). -/
def dequeue (q : Queue) (tag : Owner) (s : State) : Res Nat :=
  match s.queue q with
  | [] => .fatal .queueUnderflow s
  | h :: rest => (setOwner h tag (s.withQueue q rest)).bind fun _ s => .ok h s

/-- `TXFULL` (00 R16). -/
def State.txFull (s : State) : Bool := s.txq.length = s.cfg.qtx

/-- `RXFULL` (00 R16). -/
def State.rxFull (s : State) : Bool := s.rxq.length = s.cfg.qrx

/-! ## The adapter state -/

/-- `Ready` (00 R16). -/
def State.ready (s : State) : Bool :=
  match s.state with
  | .receiving | .transmitting => true
  | .stopped | .starting | .stopping | .error => false

/-! ## The caller ports (10 R36) -/

/-- The slot of port `p`. -/
def State.port (s : State) (p : Nat) : Port := s.ports.getD p Port.idle

/-- The state with the slot of port `p` replaced. -/
def State.withPort (s : State) (p : Nat) (pt : Port) : State := { s with ports := s.ports.set p pt }

/-- The slot after its command is answered: `BUSY <- 0` and the response delivered (10 R36, 30 R85). -/
def Port.answered (pt : Port) (r : Response) : Port := { pt with busy := false, replies := pt.replies ++ [r] }

/-- `respond` on port `p` (00 R13). -/
def State.respondOn (s : State) (p : Nat) (r : Response) : State := s.withPort p ((s.port p).answered r)

/-- `respond(status, value, data)` on the port whose step this is (00 R13). -/
def State.respond (s : State) (status : Rstat) (value : Word) (data : List Byte) : State :=
  s.respondOn s.cur ⟨status, value, data⟩

/-- `phase <- X` on the port whose step this is (00 R13). -/
def State.withPhase (s : State) (ph : Phase) : State := s.withPort s.cur { s.port s.cur with phase := ph }

/-- `DONE <- n` on the port whose step this is (41 R132). -/
def State.withDone (s : State) (n : Nat) : State := s.withPort s.cur { s.port s.cur with done := n }

/-- A response value from a count: zero-extended (30 R87), and a free value where it does not fit 32 bits (log 10). -/
def toRval (n : Nat) : Word := if n < 4294967296 then BitVec.ofNat 32 n else Config.wideValue n

/-- The value a command's response carries when the command is released or faults: `DONE` for a WRITE, else 0 (43 R183, 60 R265). -/
def Port.releaseValue (pt : Port) : Word := if (decode pt.cmd).isWrite then toRval pt.done else 0

/-- The slot after a release: a held or waiting byte-stream command is answered NOTREADY (43 R183). -/
def Port.released (pt : Port) : Port :=
  if pt.busy && (decode pt.cmd).byteStream then pt.answered ⟨.notReady, pt.releaseValue, []⟩ else pt

/-- RELEASE(p), and RELEASE(none) (43 R183). -/
def State.release (s : State) (keep : Option Nat) : State :=
  { s with ports := s.ports.mapIdx fun q pt => if keep = some q then pt else pt.released }

/-! ## Error entry (60 R265): the one operation every fatal fault takes -/

/-- ENTER_ERROR(cause), in a step of port `some p` or, for `none`, of the event loop. -/
def enterError (c : Cause) (port : Option Nat) (s : State) : State :=
  let s := { s with state := .error, errCause := some c }
  let s := s.release port
  match port with
  | some p => s.respondOn p ⟨.fatal, (s.port p).releaseValue, []⟩
  | none => s

/-- How the action of a PORT step ends the step. -/
def Res.endPort (r : Res Unit) : Host.Outcome State Fault Refusal :=
  match r with
  | .ok _ s => .next s
  | .fatal c s => .next (enterError c (some s.cur) s)
  | .stop f => .fault f

/-- How the action of an EL step ends the step. -/
def Res.endLoop (r : Res Unit) : Host.Outcome State Fault Refusal :=
  match r with
  | .ok _ s => .next s
  | .fatal c s => .next (enterError c none s)
  | .stop f => .fault f

/-! ## The radio master port (30 R95, 00 R14) -/

/-- The environment's answer to the next radio transaction: scripted, or a free value (log 3). -/
def State.answer (s : State) : RadioAnswer :=
  match s.answers with
  | [] => Config.freeAnswer s.draws
  | a :: _ => a

/-- The state after an answer is drawn. -/
def State.drawn (s : State) : State :=
  match s.answers with
  | [] => { s with draws := s.draws + 1 }
  | _ :: rest => { s with answers := rest }

/-- The state with an entry appended to the radio trace (10 R42). -/
def State.traced (s : State) (t : RadioTxn) : State := { s with rtrace := s.rtrace ++ [t] }

/-- `Radio.beginListening()` and the `ROLE` it commands (10 R21). -/
def radioBeginListening (s : State) : State := { s.traced .beginListening with role := .prx }

/-- `Radio.stopListeningAndBecomeTransmitter()` and the `ROLE` it commands (10 R21). -/
def radioBecomeTx (s : State) : State := { s.traced .becomeTx with role := .ptx }

/-- `Radio.resendLastPacket()`. -/
def radioResend (s : State) : State := s.traced .resend

/-- `Radio.sendPacket(d, n, REQUEST_ACK)`. -/
def radioSend (d : List Byte) (n : Nat) (s : State) : Bool × State :=
  (s.answer.flag, s.drawn.traced (.send d n Config.requestAck s.answer.flag))

/-- `Radio.writeAckPayload(ACK_PIPE, d, n)`. -/
def radioAckPayload (d : List Byte) (n : Nat) (s : State) : State := s.traced (.ackPayload s.cfg.ackPipe d n)

/-- `Radio.pollStatus(resetFlags)`. -/
def radioPoll (resetFlags : Bool) (s : State) : RadioStatus × State :=
  (s.answer.status, s.drawn.traced (.poll resetFlags s.answer.status))

/-- `Radio.receivePacketLength()`. -/
def radioRxLen (s : State) : Nat × State := (s.answer.length.toNat, s.drawn.traced (.rxLen s.answer.length))

/-- `Radio.receivePayload(n)`: `n` bytes, the first `n` of the draw (log 18). -/
def radioRxPayload (n : Nat) (s : State) : List Byte × State :=
  (s.answer.payload.toList.take n, s.drawn.traced (.rxPayload n (s.answer.payload.toList.take n)))

/-- `Radio.transmitFifoEmpty()`. -/
def radioTxEmpty (s : State) : Bool × State := (s.answer.flag, s.drawn.traced (.txEmpty s.answer.flag))

/-- `Radio.transmitFifoFull()`. -/
def radioTxFull (s : State) : Bool × State := (s.answer.flag, s.drawn.traced (.txFull s.answer.flag))

end Sys2Proof.Machine
end

