-- ==== Sys2Proof/Machine/Flags.lean ====
section
/-! DEFINITION. The flag and counter updates: the event bits (10 R24), REUSE and RXDEF (10 R25, R26), the statistics counters (10 R35). -/

namespace Sys2Proof.Machine

/-- `EVT.STOP <- 1` (43 R182). -/
def State.raiseStop (s : State) : State := { s with evt := { s.evt with stop := true } }

/-- `EVT.IRQ <- 1` (60 R270). -/
def State.raiseIrq (s : State) : State := { s with evt := { s.evt with irq := true } }

/-- `EVT.TXP <- 1` (41 R130, 44 R216). -/
def State.raiseTxp (s : State) : State := { s with evt := { s.evt with txp := true } }

/-- `EVT.FETCH <- 1` (42 R160). -/
def State.raiseFetch (s : State) : State := { s with evt := { s.evt with fetch := true } }

/-- EL_ITER consumes IRQ, TXP and FETCH at once; STOP stays (44 R212). -/
def State.consumeEvents (s : State) : State := { s with evt := { s.evt with irq := false, txp := false, fetch := false } }

/-- One of the signals EL_ITER waits for is pending (44 R210). -/
def Evt.pending (e : Evt) : Bool := e.irq || e.txp || e.fetch

/-- `EVT <- 0000; REUSE <- 0; RXDEF <- 0; STOPPOLLS <- 0` (43 R180, R184; 44 R230). -/
def State.clearFlags (s : State) : State := { s with evt := {}, reuse := false, rxdef := false, stopPolls := 0 }

/-- `REUSE <- b` (10 R25). -/
def State.withReuse (s : State) (b : Bool) : State := { s with reuse := b }

/-- `RXDEF <- b` (10 R26). -/
def State.withRxdef (s : State) (b : Bool) : State := { s with rxdef := b }

/-- `CNT_IRQ <- CNT_IRQ + 1`, modulo 2^32 (10 R35). -/
def State.countIrq (s : State) : State := { s with cntIrq := s.cntIrq + 1 }

/-- `CNT_SENT <- CNT_SENT + 1`, modulo 2^32 (10 R35). -/
def State.countSent (s : State) : State := { s with cntSent := s.cntSent + 1 }

/-- `CNT_MAXRT <- CNT_MAXRT + 1`, modulo 2^32 (10 R35). -/
def State.countMaxRt (s : State) : State := { s with cntMaxRt := s.cntMaxRt + 1 }

/-- `CNT_RX <- CNT_RX + 1`, modulo 2^32 (10 R35). -/
def State.countRx (s : State) : State := { s with cntRx := s.cntRx + 1 }

end Sys2Proof.Machine
end

