-- ==== Sys2Proof/Machine/Operands.lean ====
section
/-! DEFINITION. The operand forms: mode codes, register codes (30 R90 to R96), the STATS and STATUS selectors (30 R97, R98), and the guards of the commands that can be held (00 R10). -/

namespace Sys2Proof.Machine

/-! ## Codes -/

/-- `STATE` codes (30 R90). -/
def AdapterState.code : AdapterState → BitVec 3
  | .stopped => 0 | .starting => 1 | .receiving => 2 | .transmitting => 3 | .stopping => 4 | .error => 5

/-- `ROLE` codes (30 R91). -/
def Role.code : Role → BitVec 1
  | .prx => 0 | .ptx => 1

/-- `MODE` codes (30 R91). -/
def Mode.code : Mode → BitVec 2
  | .ptxOnly => 0 | .prxOnly => 1 | .adhoc => 2

/-- The mode of START's operand; code 3 is no mode (30 R82, R91). -/
def modeOf (m : BitVec 2) : Option Mode :=
  match m.toNat with
  | 0 => some .ptxOnly
  | 1 => some .prxOnly
  | 2 => some .adhoc
  | _ => none

/-- `ERRCAUSE` codes (30 R92). -/
def causeCode : Option Cause → BitVec 3
  | none => 0
  | some .poolExhausted => 1
  | some .doubleFree => 2
  | some .foreignHandle => 3
  | some .queueOverflow => 4
  | some .queueUnderflow => 5

/-- `OWNER` codes (30 R93); no command returns them. -/
def Owner.code : Owner → BitVec 3
  | .free => 0 | .fill => 1 | .txq => 2 | .inflight => 3 | .rxq => 4 | .drain => 5 | .loading => 6

/-- `EVT` bit positions: bit 0 STOP, bit 1 IRQ, bit 2 TXP, bit 3 FETCH (30 R94). -/
def Evt.code (e : Evt) : BitVec 4 :=
  BitVec.ofBool e.fetch ++ BitVec.ofBool e.txp ++ BitVec.ofBool e.irq ++ BitVec.ofBool e.stop

/-- `RSTAT` codes (30 R86). -/
def Rstat.code : Rstat → BitVec 3
  | .ok => 0 | .notReady => 1 | .rejected => 2 | .fatal => 3 | .illegal => 7

/-- The 7-bit packing of a status record (30 R96). -/
def packStatus (r : RadioStatus) : BitVec 7 :=
  BitVec.ofBool r.txFifoFull ++ r.receivedPipeNumber ++ BitVec.ofBool r.dataReceived
    ++ BitVec.ofBool r.maxRetriesExceeded ++ BitVec.ofBool r.dataSent

/-- The code of a radio transaction (30 R95). -/
def RadioTxn.code : RadioTxn → Nat
  | .beginListening => 0
  | .becomeTx => 1
  | .send _ _ _ _ => 2
  | .resend => 3
  | .poll _ _ => 4
  | .rxLen _ => 5
  | .rxPayload _ _ => 6
  | .ackPayload _ _ _ => 7
  | .txEmpty _ => 8
  | .txFull _ => 9

/-! ## Selectors -/

/-- The counter a STATS selector names (30 R97). -/
def State.counter (s : State) (sel : BitVec 2) : Word :=
  match sel.toNat with
  | 0 => s.cntIrq
  | 1 => s.cntSent
  | 2 => s.cntMaxRt
  | _ => s.cntRx

/-- The state word of STATUS selector 0 (30 R98). -/
def State.stateWord (s : State) : Word :=
  (0 : BitVec 17) ++ BitVec.ofBool s.rxdef ++ BitVec.ofBool s.reuse ++ s.evt.code ++ causeCode s.errCause
    ++ s.role.code ++ s.mode.code ++ s.state.code

/-- The drain remainder: `LEN[DRAIN] - DRAINPOS`, or 0 with no drain packet (30 R98). -/
def State.drainRemainder (s : State) : Nat :=
  match s.drain with
  | none => 0
  | some h => s.lenAt h - s.drainPos

/-- The value of a STATUS selector (30 R98); selectors 6 and 7 name none. -/
def State.statusValue (s : State) (sel : BitVec 3) : Option Word :=
  match sel.toNat with
  | 0 => some s.stateWord
  | 1 => some (toRval s.freeCount)
  | 2 => some (toRval s.txq.length)
  | 3 => some (toRval s.rxq.length)
  | 4 => some (toRval s.fillPos)
  | 5 => some (toRval s.drainRemainder)
  | _ => none

/-- The estimate AVAIL returns (42 R164). -/
def State.available (s : State) : Nat := (s.rxq.map s.lenAt).sum + s.drainRemainder

/-! ## Guards (00 R10): where a guard is false the command is held -/

/-- PUT (41 R131). -/
def State.putGuard (s : State) : Bool :=
  !s.ready || decide (s.fillPos < Config.pkt)
    || (match (s.port s.cur).phase with | .a => false | .b => decide (s.txq.length < s.cfg.qtx))

/-- WRITE of `n` bytes (41 R132). -/
def State.writeGuard (s : State) (n : Nat) : Bool :=
  !s.ready || decide (s.fillPos < Config.pkt)
    || (match (s.port s.cur).phase with
        | .a => decide ((s.port s.cur).done = n)
        | .b => decide (s.txq.length < s.cfg.qtx))

/-- FLUSH (41 R133). -/
def State.flushGuard (s : State) : Bool := !s.ready || decide (s.fillPos = 0) || decide (s.txq.length < s.cfg.qtx)

/-- GET (42 R162). -/
def State.getGuard (s : State) : Bool := !s.ready || s.drain.isSome || !s.rxq.isEmpty

/-- READ of at most `maxN` bytes (42 R163). -/
def State.readGuard (s : State) (maxN : Nat) : Bool := !s.ready || decide (maxN = 0) || s.drain.isSome || !s.rxq.isEmpty

end Sys2Proof.Machine
end

