-- ==== Sys2Proof/Machine/Lifecycle.lean ====
section
/-! DEFINITION. The lifecycle and observation commands START, STOP, RESET, STATS and STATUS, and the answer to an illegal word (spec 43). -/

namespace Sys2Proof.Machine

/-- The answer to an illegal word: no block register changes (43 R188). -/
def respondIllegal (s : State) : Host.Outcome State Fault Refusal := .next (s.respond .illegal 0 [])

/-- START in STOPPED with its mode decoded (43 R180). -/
def startUp (m : Mode) (s : State) : Res Unit :=
  (poolAlloc .fill { s with state := .starting, mode := m }.poolDestroy.clearFlags).bind fun h s =>
    .ok () (State.respond { s with fill := some h, fillPos := 0 } .ok 0 [])

/-- START `mode` on the port whose step this is (43 R180). The operand 3 is no mode and its word is illegal (30 R83; log 14). -/
def execStart (mode : BitVec 2) (s : State) : Host.Outcome State Fault Refusal :=
  match modeOf mode with
  | none => respondIllegal s
  | some m => if s.state ≠ .stopped then .next (s.respond .rejected 0 []) else (startUp m s).endPort

/-- STOP on the port whose step this is (43 R182). -/
def execStop (s : State) : Host.Outcome State Fault Refusal :=
  if !s.ready then .next (s.respond .rejected 0 [])
  else .next ((State.release { s.raiseStop with state := .stopping, stopPolls := 0 } (some s.cur)).respond .ok 0 [])

/-- RESET on the port whose step this is (43 R184). -/
def execReset (s : State) : Host.Outcome State Fault Refusal :=
  if s.state ≠ .error then .next (s.respond .rejected 0 [])
  else .next (State.respond { s with state := .stopped, errCause := none }.poolDestroy.clearFlags .ok 0 [])

/-- STATS `sel` on the port whose step this is (43 R186). -/
def execStats (sel : BitVec 2) (s : State) : Host.Outcome State Fault Refusal := .next (s.respond .ok (s.counter sel) [])

/-- STATUS `sel` on the port whose step this is (43 R187). The selectors 6 and 7 name no value and their words are illegal (30 R83; log 14). -/
def execStatus (sel : BitVec 3) (s : State) : Host.Outcome State Fault Refusal :=
  match s.statusValue sel with
  | none => respondIllegal s
  | some v => .next (s.respond .ok v [])

end Sys2Proof.Machine
end

