-- ==== Sys2Proof/Machine/Receive.lean ====
section
/-! DEFINITION. The caller side of the receive path: ADOPT, CONSUME, GET, READ and AVAIL (spec 42). -/

namespace Sys2Proof.Machine

/-- ADOPT (42 R160). -/
def adopt (s : State) : Res Unit :=
  (dequeue .rx .drain s).bind fun h s => .ok () { s.raiseFetch with drain := some h, drainPos := 0 }

/-- CONSUME(k) (42 R161), called only with `1 <= k <= LEN[DRAIN] - DRAINPOS` (log 8). `DRAINPOS` moves before PoolFree, so that a
fault of PoolFree leaves it moved (00 R13). -/
def consume (k : Nat) (s : State) : Res (List Byte) :=
  match s.drain with
  | none => .stop .noSlot
  | some h =>
    if ¬ (1 ≤ k ∧ k ≤ s.lenAt h - s.drainPos) then .stop .drainRange
    else
      (readBytes h s.drainPos k s).bind fun out s =>
        let s := { s with drainPos := s.drainPos + k }
        if s.drainPos = s.lenAt h then
          (poolFree s.drain s).bind fun _ s => .ok out { s with drain := none, drainPos := 0 }
        else .ok out s

/-- The drain packet is there, or the next one is adopted (42 R162, R163). -/
def adoptIfNone (s : State) : Res Unit := if s.drain.isNone then adopt s else .ok () s

/-- GET on the port whose step this is (42 R162). -/
def execGet (s : State) : Host.Outcome State Fault Refusal :=
  if !s.getGuard then .next s
  else if !s.ready then .next (s.respond .notReady 0 [])
  else
    ((adoptIfNone s).bind fun _ s =>
      (consume 1 s).bind fun out s => .ok () (s.respond .ok ((out.headD 0).setWidth 32) [])).endPort

/-- The loop of READ, with `out` the bytes taken so far. Every pass but the first adopts a packet, so `len(RXQ) + 1` passes reach
the end (log 16). -/
def readLoop (maxN : Nat) : (fuel : Nat) → List Byte → State → Res (List Byte)
  | 0, out, s => .ok out s
  | fuel + 1, out, s =>
    if ¬ out.length < maxN then .ok out s
    else if s.drain.isNone && s.rxq.isEmpty then .ok out s
    else
      (adoptIfNone s).bind fun _ s =>
        (consume (min (maxN - out.length) s.drainRemainder) s).bind fun bs s => readLoop maxN fuel (out ++ bs) s

/-- READ `maxN` on the port whose step this is (42 R163). -/
def execRead (maxN : BitVec 24) (s : State) : Host.Outcome State Fault Refusal :=
  if !s.readGuard maxN.toNat then .next s
  else if !s.ready then .next (s.respond .notReady 0 [])
  else
    ((readLoop maxN.toNat (s.rxq.length + 1) [] s).bind fun out s =>
      .ok () (s.respond .ok (toRval out.length) out)).endPort

/-- AVAIL on the port whose step this is (42 R164). -/
def execAvail (s : State) : Host.Outcome State Fault Refusal :=
  if !s.ready then .next (s.respond .notReady 0 []) else .next (s.respond .ok (toRval s.available) [])

end Sys2Proof.Machine
end

