-- ==== Sys2Proof/Machine/Transmit.lean ====
section
/-! DEFINITION. The caller side of the transmit path: FLUSH_CORE, PUT, WRITE and FLUSH (spec 41). -/

namespace Sys2Proof.Machine

/-- FLUSH_CORE (41 R130). -/
def flushCore (s : State) : Res Unit :=
  match s.fill with
  | none => .stop .noSlot
  | some h =>
    (setLen h s.fillPos s).bind fun _ s =>
    (enqueue .tx h .txq s).bind fun _ s =>
    (poolAlloc .fill { s.raiseTxp with fill := none, fillPos := 0 }).bind fun h' s =>
    .ok () { s with fill := some h' }

/-- MemWrite of a chunk at the fill position, which moves past it (41 R131, R132). -/
def appendFill (bs : List Byte) (s : State) : Res Unit :=
  match s.fill with
  | none => .stop .noSlot
  | some h => (writeBytes h s.fillPos bs s).bind fun _ s => .ok () { s with fillPos := s.fillPos + bs.length }

/-- Phase A of PUT in a Ready state (41 R131). -/
def putPhaseA (b : Byte) (s : State) : Res Unit :=
  (appendFill [b] s).bind fun _ s =>
    if s.fillPos < Config.pkt then .ok () (s.respond .ok 0 [])
    else if s.txq.length < s.cfg.qtx then (flushCore s).bind fun _ s => .ok () (s.respond .ok 0 [])
    else .ok () (s.withPhase .b)

/-- Phase B of PUT in a Ready state (41 R131). -/
def putPhaseB (s : State) : Res Unit :=
  if s.fillPos < Config.pkt then .ok () (s.respond .ok 0 [])
  else (flushCore s).bind fun _ s => .ok () (s.respond .ok 0 [])

/-- PUT `b` on the port whose step this is (41 R131). -/
def execPut (b : BitVec 8) (s : State) : Host.Outcome State Fault Refusal :=
  if !s.putGuard then .next s
  else if !s.ready then .next (s.respond .notReady 0 [])
  else
    match (s.port s.cur).phase with
    | .a => (putPhaseA b s).endPort
    | .b => (putPhaseB s).endPort

/-- The chunk of payload bytes a WRITE of `n` bytes appends in one step: at most up to the end of the fill packet (41 R132). -/
def State.writeChunk (s : State) (n : Nat) : List Byte :=
  ((s.port s.cur).wdata.drop (s.port s.cur).done).take (min (n - (s.port s.cur).done) (Config.pkt - s.fillPos))

/-- Phase A of WRITE in a Ready state (41 R132). -/
def writePhaseA (n : Nat) (s : State) : Res Unit :=
  if (s.port s.cur).done = n then .ok () (s.respond .ok (toRval n) [])
  else
    (appendFill (s.writeChunk n) (s.withDone ((s.port s.cur).done + (s.writeChunk n).length))).bind fun _ s =>
      if s.fillPos < Config.pkt then .ok () (s.respond .ok (toRval n) [])
      else if s.txq.length < s.cfg.qtx then
        (flushCore s).bind fun _ s =>
          if (s.port s.cur).done = n then .ok () (s.respond .ok (toRval n) []) else .ok () (s.withPhase .a)
      else .ok () (s.withPhase .b)

/-- Phase B of WRITE in a Ready state (41 R132). -/
def writePhaseB (n : Nat) (s : State) : Res Unit :=
  (if s.fillPos = Config.pkt then flushCore s else .ok () s).bind fun _ s =>
    if (s.port s.cur).done = n then .ok () (s.respond .ok (toRval n) []) else .ok () (s.withPhase .a)

/-- WRITE `n` on the port whose step this is (41 R132). -/
def execWrite (n : BitVec 24) (s : State) : Host.Outcome State Fault Refusal :=
  if !s.writeGuard n.toNat then .next s
  else if !s.ready then .next (s.respond .notReady (toRval (s.port s.cur).done) [])
  else
    match (s.port s.cur).phase with
    | .a => (writePhaseA n.toNat s).endPort
    | .b => (writePhaseB n.toNat s).endPort

/-- FLUSH on the port whose step this is (41 R133). -/
def execFlush (s : State) : Host.Outcome State Fault Refusal :=
  if !s.flushGuard then .next s
  else if !s.ready then .next (s.respond .notReady 0 [])
  else if s.fillPos = 0 then .next (s.respond .ok 0 [])
  else ((flushCore s).bind fun _ s => .ok () (s.respond .ok 0 [])).endPort

end Sys2Proof.Machine
end

