-- ==== Sys2Proof/Machine/Dispatch.lean ====
section
/-! DEFINITION. One arm per command: its meaning on the port whose step this is. -/

namespace Sys2Proof.Machine

def exec (i : Instr) (s : State) : Host.Outcome State Fault Refusal :=
  match i with
  | .put b => Sys2Proof.Machine.execPut b s
  | .write n => Sys2Proof.Machine.execWrite n s
  | .flush => Sys2Proof.Machine.execFlush s
  | .get => Sys2Proof.Machine.execGet s
  | .read maxN => Sys2Proof.Machine.execRead maxN s
  | .avail => Sys2Proof.Machine.execAvail s
  | .start mode => Sys2Proof.Machine.execStart mode s
  | .stop => Sys2Proof.Machine.execStop s
  | .reset => Sys2Proof.Machine.execReset s
  | .stats sel => Sys2Proof.Machine.execStats sel s
  | .status sel => Sys2Proof.Machine.execStatus sel s

end Sys2Proof.Machine
end

