-- ==== Sys2Proof/Machine/EventLoop.lean ====
section
/-! DEFINITION. The event loop: EL_START, EL_ITER, EL_STOP and the micro-operations they call (spec 44). -/

namespace Sys2Proof.Machine

/-- EL_START (44 R211). -/
def elStart (s : State) : Res Unit :=
  match s.mode with
  | .ptxOnly => .ok () { radioBecomeTx s with state := .transmitting }
  | .prxOnly | .adhoc => .ok () { radioBeginListening s with state := .receiving }

/-- DROP (44 R216); the answer is `fellBack`. -/
def dropPacket (s : State) : Bool × State :=
  let s := s.withReuse false
  if s.mode = .adhoc then
    let s := { radioBeginListening s with state := .receiving }
    (true, if s.txq.isEmpty then s else s.raiseTxp)
  else (false, s)

/-- RETRY (44 R215); the answer is `fellBack`. -/
def retry (s : State) : Bool × State :=
  if s.reuse then dropPacket s else (false, (radioResend s).withReuse true)

/-- The length of the next received packet: asked of the radio, or fixed (44 R217). -/
def rxLength (s : State) : Nat × State := if s.cfg.dynpd then radioRxLen s else (s.cfg.payloadSize, s)

/-- One packet of `n` bytes from the radio into slot `h` and the receive queue (44 R217). -/
def rxLoad (h n : Nat) (s : State) : Res Unit :=
  let r := radioRxPayload n s
  (writeBytes h 0 r.1 r.2).bind fun _ s =>
  (setLen h n s).bind fun _ s =>
  enqueue .rx h .rxq s

/-- The loop of RX_FILL. Every pass that goes on takes a free slot, so `FREECOUNT + 1` passes reach a return (log 16). -/
def rxFillLoop : (fuel : Nat) → (avail : Bool) → State → Res Unit
  | 0, _, s => .ok () s
  | fuel + 1, avail, s =>
    if !avail then .ok () (s.withRxdef false)
    else if s.rxFull || s.freeCount == 0 then .ok () (s.withRxdef true)
    else
      let l := rxLength s
      if l.1 = 0 ∨ Config.pkt < l.1 then .ok () (l.2.withRxdef false)
      else
        (poolTryAlloc .loading l.2).bind fun slot s =>
          match slot with
          | none => .ok () (s.withRxdef true)
          | some h =>
            (rxLoad h l.1 s).bind fun _ s =>
              let q := radioPoll false s
              rxFillLoop fuel q.1.dataReceived q.2

/-- RX_FILL(avail) (44 R217). -/
def rxFill (avail : Bool) (s : State) : Res Unit := rxFillLoop (s.freeCount + 1) avail s

/-- HANDLE_IRQ (44 R214); the answer is `fellBack`. -/
def handleIrq (s : State) : Res Bool :=
  let p := radioPoll true s
  let s := if p.1.dataSent then p.2.countSent.withReuse false else p.2
  let r :=
    if p.1.maxRetriesExceeded then
      (if s.state = .transmitting then retry s.countMaxRt else (false, s.countMaxRt))
    else (false, s)
  if p.1.dataReceived then (rxFill true r.2.countRx).bind fun _ s => .ok r.1 s else .ok r.1 r.2

/-- How TX_DRAIN hands a packet to the radio (44 R218). -/
inductive TxKind where
  | send | ack
deriving DecidableEq, Repr

/-- The kind of TX_DRAIN's transactions, or none while listening in a mode that does not send then (44 R218). -/
def State.txKind (s : State) : Option TxKind :=
  match s.role with
  | .ptx => some .send
  | .prx => if s.mode = .prxOnly then some .ack else none

/-- The hand-off of one packet's bytes; the answer says whether the drain goes on (44 R218). -/
def handOff (kind : TxKind) (d : List Byte) (n : Nat) (s : State) : Bool × State :=
  match kind with
  | .send => radioSend d n s
  | .ack => (true, radioAckPayload d n s)

/-- One packet out of the transmit queue and into the radio, its slot freed; the answer says whether the drain goes on (44 R218). -/
def txOne (kind : TxKind) (s : State) : Res Bool :=
  (dequeue .tx .inflight s).bind fun h s =>
  (readBytes h 0 (s.lenAt h) s).bind fun d s =>
    let r := handOff kind d (s.lenAt h) s
    (poolFree (some h) r.2).bind fun _ s => .ok r.1 s

/-- The loop of TX_DRAIN. Every pass takes a packet off the queue, so `len(TXQ)` passes empty it (log 16). -/
def txDrainLoop (kind : TxKind) : (fuel : Nat) → State → Res Unit
  | 0, s => .ok () s
  | fuel + 1, s =>
    if s.txq.isEmpty then .ok () s
    else
      let f := radioTxFull s
      if f.1 then .ok () f.2
      else (txOne kind f.2).bind fun more s => if more then txDrainLoop kind fuel s else .ok () s

/-- TX_DRAIN (44 R218). -/
def txDrain (s : State) : Res Unit :=
  match s.txKind with
  | none => .ok () s
  | some kind => txDrainLoop kind s.txq.length s

/-- SWITCH_TO_TX (44 R219). -/
def switchToTx (s : State) : State := State.withReuse { radioBecomeTx s with state := .transmitting } false

/-- TURNAROUND (44 R222). -/
def turnaround (s : State) : State :=
  let e := radioTxEmpty s
  if e.1 then State.withReuse { radioBeginListening e.2 with state := .receiving } false else e.2

/-- The interrupt part of EL_ITER, with the events it consumed; the answer is `fellBack` (44 R212). -/
def iterIrq (ev : Evt) (s : State) : Res Bool := if ev.irq then handleIrq s else .ok false s

/-- The fetch refill (44 R212, R220). -/
def iterFetch (ev : Evt) (s : State) : Res Unit :=
  if ev.fetch && s.rxdef then
    let p := radioPoll false s
    rxFill p.1.dataReceived p.2
  else .ok () s

/-- The switch to transmit where ADHOC asks for it (44 R212, R219). -/
def iterSwitch (fellBack : Bool) (s : State) : State :=
  if s.mode = .adhoc ∧ s.state = .receiving ∧ s.txq ≠ [] ∧ fellBack = false then switchToTx s else s

/-- The turnaround where ADHOC asks for it (44 R212, R222). -/
def iterTurnaround (s : State) : State :=
  if s.mode = .adhoc ∧ s.state = .transmitting ∧ s.txq = [] then turnaround s else s

/-- EL_ITER (44 R212). -/
def elIter (s : State) : Res Unit :=
  (iterIrq s.evt s.consumeEvents).bind fun fellBack s1 =>
  (iterFetch s.evt s1).bind fun _ s2 =>
  (txDrain (iterSwitch fellBack s2)).bind fun _ s3 =>
  .ok () (iterTurnaround s3)

/-- FINALIZE (44 R230). -/
def finalize (s : State) : State := { s.poolDestroy.clearFlags with state := .stopped }

/-- `STOP_POLL_LIMIT` is finite and reached (44 R229). -/
def State.pollLimitReached (s : State) : Bool :=
  match s.cfg.stopPollLimit with
  | none => false
  | some l => decide (l ≤ s.stopPolls)

/-- The switch to transmit at the start of a stop drain (44 R229). -/
def stopSwitch (s : State) : State :=
  if s.mode = .adhoc ∧ s.role = .prx ∧ s.txq ≠ [] then radioBecomeTx s else s

/-- The poll that did not find the transmit side empty (44 R229). -/
def stopPoll (s : State) : State :=
  let s := { s with stopPolls := s.stopPolls + 1 }
  if s.pollLimitReached then finalize s else s

/-- EL_STOP (44 R229). -/
def elStop (s : State) : Res Unit :=
  (txDrain (stopSwitch s)).bind fun _ s =>
    if s.txq.isEmpty then
      let e := radioTxEmpty s
      .ok () (if e.1 then finalize e.2 else stopPoll e.2)
    else .ok () (stopPoll s)

/-- The EL step enabled in a state, if one is (44 R210). -/
inductive ElStep where
  | start | iter | stop
deriving DecidableEq, Repr

/-- Which EL step is enabled (44 R210). -/
def State.elEnabled (s : State) : Option ElStep :=
  match s.state with
  | .stopped | .error => none
  | .starting => some .start
  | .receiving | .transmitting => if s.evt.pending then some .iter else none
  | .stopping => some .stop

/-- A step of `EL`; where none is enabled nothing changes (44 R210, R224; log 2). -/
def elStep (s : State) : Host.Outcome State Fault Refusal :=
  match s.elEnabled with
  | none => .next s
  | some .start => (elStart s).endLoop
  | some .iter => (elIter s).endLoop
  | some .stop => (elStop s).endLoop

end Sys2Proof.Machine
end

