-- ==== Sys2Proof/Machine/Agents.lean ====
section
/-! DEFINITION. The steps of the agents PORT, HOST, IRQ and RST (00 R8), and the arbiter's choice of the agent that steps (00 R9). -/

namespace Sys2Proof.Machine

/-- A step of `PORT[p]` (00 R10): the port's word is decoded before anything else (30 R88, 60 R263). A port that is idle or
not there has no step, and then nothing changes (log 2). -/
def portStep (p : Nat) (s : State) : Host.Outcome State Fault Refusal :=
  if p < s.cfg.nport ∧ (s.port p).busy = true then
    match decode (s.port p).cmd with
    | .ok i => exec i { s with cur := p }
    | .illegal _ => respondIllegal { s with cur := p }
  else .next s

/-- A `HOST` step: the host places a word and its payload into an idle port (10 R36, 30 R84). A payload that is not the
command's is refused (93 #21; log 7); a port that is busy or not there takes nothing (log 2). -/
def hostStep (p : Nat) (w : Word) (payload : List Byte) (s : State) : Host.Outcome State Fault Refusal :=
  if p < s.cfg.nport ∧ (s.port p).busy = false then
    if payload.length = (decode w).payloadLength then
      .next (s.withPort p { s.port p with busy := true, cmd := w, wdata := payload, phase := .a, done := 0 })
    else .refused .payloadLength
  else .next s

/-- The `IRQ` step (60 R270). -/
def irqStep (s : State) : Host.Outcome State Fault Refusal := .next (if s.ready then s.raiseIrq.countIrq else s)

/-- `LEN[h]` after the `RST` step number `epoch`: unspecified, so a free value within 0..PKT (10 R29, 70 R290; log 4). -/
def freshLens (epoch slots : Nat) : List Nat := (List.range slots).map fun h => (Config.freeLen epoch h).val

/-- The state after the `RST` step (70 R290, 10 R43). `LEN` and `DATA` become unspecified (log 4, log 5); the observations made
before it stand (10 R42; log 9). -/
def State.afterRst (s : State) : State :=
  { s with
    state := .stopped
    role := .prx
    mode := .ptxOnly
    errCause := none
    evt := {}
    reuse := false
    rxdef := false
    stopPolls := 0
    owner := List.replicate s.cfg.slots .free
    len := freshLens (s.epoch + 1) s.cfg.slots
    data := []
    txq := []
    rxq := []
    fill := none
    fillPos := 0
    drain := none
    drainPos := 0
    cntIrq := 0
    cntSent := 0
    cntMaxRt := 0
    cntRx := 0
    ports := s.ports.map fun pt => { pt with busy := false }
    epoch := s.epoch + 1 }

/-- The `RST` step (70 R290). -/
def rstStep (s : State) : Host.Outcome State Fault Refusal := .next s.afterRst

/-- The arbiter's next choice: scripted, or a free value (00 R9; log 2). -/
def State.nextEvent (s : State) : Event :=
  match s.schedule with
  | [] => Config.freeEvent s.ticks
  | e :: _ => e

/-- The state after the arbiter has chosen. -/
def State.chosen (s : State) : State :=
  match s.schedule with
  | [] => { s with ticks := s.ticks + 1 }
  | _ :: rest => { s with schedule := rest }

/-- The step of the chosen agent (00 R8). -/
def takeEvent (e : Event) (s : State) : Host.Outcome State Fault Refusal :=
  match e with
  | .port p => portStep p s
  | .el => elStep s
  | .irq => irqStep s
  | .host p w payload => hostStep p w payload s
  | .rst => rstStep s

/-- The state in which port 0 holds the word, with a payload of zeros of its length, and the arbiter chooses that port next (log 11). -/
def State.withCommand (s : State) (w : Word) : State :=
  { s.withPort 0
      { s.port 0 with
        busy := true
        cmd := w
        wdata := List.replicate (decode w).payloadLength 0
        phase := .a
        done := 0 } with
    schedule := .port 0 :: s.schedule }

end Sys2Proof.Machine
end

