-- ==== Sys2Proof/Machine/Step.lean ====
section
/-! DEFINITION. One step of the machine: the arbiter chooses an agent and it takes one indivisible step (00 R9). -/

namespace Sys2Proof.Machine

/-- One step. An ill-formed configuration is refused (00 R7). -/
def step (s : State) : Host.Outcome State Fault Refusal :=
  if s.cfg.wellFormed then takeEvent s.nextEvent s.chosen else .refused .illFormedConfig

/-- The state with the table's word in port 0 and that port chosen next: the block fetches no instructions (10 R39), so this stands
for the HOST step that delivers the command and the arbiter's grant (log 11). -/
def State.withFetchWord (s : State) (nbits w : Nat) : State := s.withCommand (BitVec.ofNat 32 (w % 2 ^ nbits))

end Sys2Proof.Machine
end

