-- ==== Sys2Proof/Safety.lean ====
section
/-! DEFINITION. The terms claims are stated in: the bytes waiting in each direction, the bytes in a radio trace, the invariants of spec 10 and 40, and the transition table of 43 R189. -/

namespace Sys2Proof.Machine

/-! ## Byte streams -/

/-- The bytes of packet `h`: `DATA[h][0..LEN[h]-1]` (20 R64). -/
def State.packet (s : State) (h : Nat) : List Byte := (List.range (s.lenAt h)).map (s.byteAt h)

/-- The unflushed bytes: `DATA[FILL][0..FILLPOS-1]` (10 R33). -/
def State.fillBytes (s : State) : List Byte :=
  match s.fill with
  | none => []
  | some h => (List.range s.fillPos).map (s.byteAt h)

/-- The unread bytes of the drain packet: `DATA[DRAIN][DRAINPOS..LEN[DRAIN]-1]` (10 R34). -/
def State.drainBytes (s : State) : List Byte :=
  match s.drain with
  | none => []
  | some h => (s.packet h).drop s.drainPos

/-- The bytes accepted from callers and not yet handed to the radio: parts (b) and (c) of 41 R135. -/
def State.unsent (s : State) : List Byte := s.txq.flatMap s.packet ++ s.fillBytes

/-- The bytes received from the radio and not yet returned to a caller (42 R165). -/
def State.unread (s : State) : List Byte := s.drainBytes ++ s.rxq.flatMap s.packet

/-- The payload bytes a radio transaction hands to the radio (30 R95). -/
def RadioTxn.handed : RadioTxn → List Byte
  | .send d _ _ _ => d
  | .ackPayload _ d _ => d
  | .beginListening | .becomeTx | .resend | .poll _ _ | .rxLen _ | .rxPayload _ _ | .txEmpty _ | .txFull _ => []

/-- The payload bytes a radio transaction receives from the radio (30 R95). -/
def RadioTxn.received : RadioTxn → List Byte
  | .rxPayload _ d => d
  | .beginListening | .becomeTx | .send _ _ _ _ | .resend | .poll _ _ | .rxLen _ | .ackPayload _ _ _ | .txEmpty _ | .txFull _ => []

/-! ## Ports -/

/-- Port `p` is there and its slot in `t` is its slot in `s` with the response delivered; every other port is as in `s`. -/
def AnsweredOnly (s t : State) (p : Nat) (r : Response) : Prop :=
  p < s.ports.length ∧ t.ports = s.ports.set p ((s.port p).answered r)

/-- Every port but `p` is as in `s`. -/
def OtherPortsSame (s t : State) (p : Nat) : Prop := ∀ q, q ≠ p → t.ports[q]? = s.ports[q]?

/-! ## What a step leaves alone -/

/-- The configuration, the observations but the responses, and the model's own fields are unchanged. -/
def EnvironmentSame (s t : State) : Prop :=
  t.cfg = s.cfg ∧ t.rtrace = s.rtrace ∧ t.cur = s.cur ∧ t.schedule = s.schedule ∧ t.ticks = s.ticks
    ∧ t.answers = s.answers ∧ t.draws = s.draws ∧ t.epoch = s.epoch

/-- The statistics counters are unchanged. -/
def CountersSame (s t : State) : Prop :=
  t.cntIrq = s.cntIrq ∧ t.cntSent = s.cntSent ∧ t.cntMaxRt = s.cntMaxRt ∧ t.cntRx = s.cntRx

/-- `STATE`, `ROLE`, `MODE` and `ERRCAUSE` are unchanged. -/
def ControlSame (s t : State) : Prop :=
  t.state = s.state ∧ t.role = s.role ∧ t.mode = s.mode ∧ t.errCause = s.errCause

/-- `EVT`, `REUSE`, `RXDEF` and `STOPPOLLS` are unchanged. -/
def FlagsSame (s t : State) : Prop :=
  t.evt = s.evt ∧ t.reuse = s.reuse ∧ t.rxdef = s.rxdef ∧ t.stopPolls = s.stopPolls

/-- The pool, the packet memory, the queues, the fill slot and the drain slot are unchanged. -/
def PacketsSame (s t : State) : Prop :=
  t.owner = s.owner ∧ t.len = s.len ∧ t.data = s.data ∧ t.txq = s.txq ∧ t.rxq = s.rxq
    ∧ t.fill = s.fill ∧ t.fillPos = s.fillPos ∧ t.drain = s.drain ∧ t.drainPos = s.drainPos

/-- A step that ended in Error entry: `STATE` was Ready and is ERROR, a cause is recorded, and the port's response is FATAL (60 R265). -/
def FaultedOn (s t : State) (p : Nat) : Prop :=
  s.ready = true ∧ t.state = .error ∧ t.errCause.isSome = true
    ∧ (p < s.ports.length → ∃ v, (t.port p).replies = (s.port p).replies ++ [⟨.fatal, v, []⟩])

/-- The bytes a command of the transmit path stores in this step, at the fill position of the fill packet: the byte of a PUT and
the chunk of a WRITE, in phase A of a Ready adapter with room in the fill packet (41 R131, R132); every other command stores none. -/
def storedBytes (i : Instr) (s : State) : List Byte :=
  if s.ready = true ∧ (s.port s.cur).phase = .a ∧ s.fillPos < Config.pkt then
    match i with
    | .put b => [b]
    | .write n => s.writeChunk n.toNat
    | .flush | .get | .read _ | .avail | .start _ | .stop | .reset | .stats _ | .status _ => []
  else []

/-- What address `a` of packet memory lists once the bytes `bs` are stored at the fill position of the fill packet. -/
def readAfterStore (s : State) (bs : List Byte) (a : Nat) : Option Byte :=
  match s.fill with
  | none => Memory.read? s.data a
  | some h =>
    if slotAddr h s.fillPos ≤ a ∧ a < slotAddr h s.fillPos + bs.length then bs[a - slotAddr h s.fillPos]?
    else Memory.read? s.data a

/-! ## Invariants -/

/-- The registers have the sizes the configuration gives them (10 R28, R29, R36). -/
structure Shaped (s : State) : Prop where
  config : s.cfg.wellFormed = true
  owners : s.owner.length = s.cfg.slots
  lens : s.len.length = s.cfg.slots
  lenBound : ∀ n ∈ s.len, n ≤ Config.pkt
  ports : s.ports.length = s.cfg.nport

/-- The tags agree with the references (10 R37). -/
structure TagsAgree (s : State) : Prop where
  fill : ∀ h < s.cfg.slots, (s.ownerAt h = .fill ↔ s.fill = some h)
  drain : ∀ h < s.cfg.slots, (s.ownerAt h = .drain ↔ s.drain = some h)
  txq : ∀ h < s.cfg.slots, (s.ownerAt h = .txq ↔ h ∈ s.txq)
  rxq : ∀ h < s.cfg.slots, (s.ownerAt h = .rxq ↔ h ∈ s.rxq)
  settled : ∀ h < s.cfg.slots, s.ownerAt h ≠ .inflight ∧ s.ownerAt h ≠ .loading
  fillSlot : ∀ h ∈ s.fill, h < s.cfg.slots
  drainSlot : ∀ h ∈ s.drain, h < s.cfg.slots
  txqSlots : ∀ h ∈ s.txq, h < s.cfg.slots
  rxqSlots : ∀ h ∈ s.rxq, h < s.cfg.slots
  txqOnce : s.txq.Nodup
  rxqOnce : s.rxq.Nodup

/-- The ranges of the queues, the fill slot and the drain slot (10 R31 to R34, 40 R118, 41 R130). -/
structure InRange (s : State) : Prop where
  txq : s.txq.length ≤ s.cfg.qtx
  rxq : s.rxq.length ≤ s.cfg.qrx
  txLens : ∀ h ∈ s.txq, 1 ≤ s.lenAt h
  rxLens : ∀ h ∈ s.rxq, 1 ≤ s.lenAt h
  fillPos : s.fillPos ≤ Config.pkt
  noFill : s.fill = none → s.fillPos = 0
  noDrain : s.drain = none → s.drainPos = 0
  drainPos : ∀ h ∈ s.drain, s.drainPos < s.lenAt h

/-- The control registers agree (10 R20, R21, R23, R24, R27, R33), and the block is not in ERROR, which no run of a well-formed
configuration reaches (40 R118). -/
structure ControlAgrees (s : State) : Prop where
  noError : s.state ≠ .error
  noCause : s.errCause = none
  receiving : s.state = .receiving → s.role = .prx
  transmitting : s.state = .transmitting → s.role = .ptx
  stopEvent : s.evt.stop = true ↔ s.state = .stopping
  fill : s.fill = none ↔ s.state = .stopped
  stopped : s.state = .stopped → s.txq = [] ∧ s.rxq = [] ∧ s.drain = none
  polls : ∀ l ∈ s.cfg.stopPollLimit, s.stopPolls ≤ l

/-- A busy port holds a command with its own payload, and has appended no more of it than there is (10 R36, 30 R84). -/
def PortsAgree (s : State) : Prop :=
  ∀ pt ∈ s.ports, pt.busy = true → pt.wdata.length = (decode pt.cmd).payloadLength ∧ pt.done ≤ pt.wdata.length

/-- The invariant of every run of a well-formed configuration (10 R20 to R37). -/
structure Consistent (s : State) : Prop where
  shaped : Shaped s
  tags : TagsAgree s
  ranges : InRange s
  control : ControlAgrees s
  ports : PortsAgree s

/-- The fill packet is empty until the adapter is Ready (43 R180), and from then on a full one is always waited for by a PUT or WRITE in
phase B (41 R136). -/
structure FullFillHeld (s : State) : Prop where
  starting : s.state = .starting → s.fillPos = 0
  held : s.ready = true → s.fillPos = Config.pkt →
    ∃ pt ∈ s.ports, pt.busy = true ∧ pt.phase = .b
      ∧ ((decode pt.cmd).isWrite = true ∨ ∃ b, decode pt.cmd = .ok (.put b))

/-- The part of the invariant that holds in ERROR too (10 R21, R23). -/
structure CauseAgrees (s : State) : Prop where
  cause : s.errCause = none ↔ s.state ≠ .error
  receiving : s.state = .receiving → s.role = .prx
  transmitting : s.state = .transmitting → s.role = .ptx

/-- The transition table of 43 R189: the agent that steps, `MODE`, and the two values of `STATE`. -/
def arc : Event → Mode → AdapterState → AdapterState → Bool
  | .port _, _, .stopped, .starting => true
  | .el, m, .starting, .receiving => m != .ptxOnly
  | .el, m, .starting, .transmitting => m == .ptxOnly
  | .el, m, .receiving, .transmitting => m == .adhoc
  | .el, m, .transmitting, .receiving => m == .adhoc
  | .port _, _, .receiving, .stopping => true
  | .port _, _, .transmitting, .stopping => true
  | .el, _, .stopping, .stopped => true
  | .port _, _, .starting, .error => true
  | .port _, _, .receiving, .error => true
  | .port _, _, .transmitting, .error => true
  | .el, _, .starting, .error => true
  | .el, _, .receiving, .error => true
  | .el, _, .transmitting, .error => true
  | .el, _, .stopping, .error => true
  | .port _, _, .error, .stopped => true
  | .rst, _, _, .stopped => true
  | _, _, _, _ => false

end Sys2Proof.Machine
end

