-- ==== Sys2Proof/Certificates/Slice0/Obligations.lean ====
section
/-! DEFINITION. The statements for the provers, from the numbered rules of spec/. -/

open Sys2Proof Sys2Proof.Machine

/-! ## Encoding -/

/-- Decoding the word of a well-formed command gives the command back, with every operand at every value (30 R80 to R82, R88). -/
def Obligations.DecodeOfEncode : Prop :=
  ∀ i : Instr, i.wellFormed = true → decode (encode i) = .ok i

/-- A legal word is the word of exactly the command it decodes to, and that command is well-formed (30 R82, R83). -/
def Obligations.EncodeOfDecode : Prop :=
  ∀ (w : Word) (i : Instr), decode w = .ok i → encode i = w ∧ i.wellFormed = true

/-- The illegal words are exactly those of 30 R83, by the fields of the word as a number. -/
def Obligations.IllegalWordsExactly : Prop :=
  ∀ w : Word,
    (∃ r, decode w = .illegal r) ↔
      (w.toNat / 2 ^ 28 = 0 ∨ 12 ≤ w.toNat / 2 ^ 28
        ∨ w.toNat / 2 ^ 24 % 16 ≠ 0
        ∨ (w.toNat / 2 ^ 28 = 1 ∧ 256 ≤ w.toNat % 2 ^ 24)
        ∨ (w.toNat / 2 ^ 28 ∈ [3, 4, 6, 8, 9] ∧ w.toNat % 2 ^ 24 ≠ 0)
        ∨ (w.toNat / 2 ^ 28 = 7 ∧ 3 ≤ w.toNat % 2 ^ 24)
        ∨ (w.toNat / 2 ^ 28 = 10 ∧ 4 ≤ w.toNat % 2 ^ 24)
        ∨ (w.toNat / 2 ^ 28 = 11 ∧ 6 ≤ w.toNat % 2 ^ 24))

/-- The worked encodings of 30 R99. -/
def Obligations.WorkedEncodings : Prop :=
  decode 0x10000041 = .ok (.put 0x41) ∧ encode (.put 0x41) = 0x10000041
  ∧ decode 0x20000064 = .ok (.write 100) ∧ encode (.write 100) = 0x20000064 ∧ (Instr.write 100).payloadLength = 100
  ∧ decode 0x30000000 = .ok .flush ∧ encode .flush = 0x30000000
  ∧ decode 0x40000000 = .ok .get ∧ encode .get = 0x40000000
  ∧ decode 0x50000010 = .ok (.read 16) ∧ encode (.read 16) = 0x50000010
  ∧ decode 0x60000000 = .ok .avail ∧ encode .avail = 0x60000000
  ∧ decode 0x70000000 = .ok (.start Mode.ptxOnly.code) ∧ encode (.start Mode.ptxOnly.code) = 0x70000000
  ∧ decode 0x70000001 = .ok (.start Mode.prxOnly.code) ∧ encode (.start Mode.prxOnly.code) = 0x70000001
  ∧ decode 0x70000002 = .ok (.start Mode.adhoc.code) ∧ encode (.start Mode.adhoc.code) = 0x70000002
  ∧ decode 0x80000000 = .ok .stop ∧ encode .stop = 0x80000000
  ∧ decode 0x90000000 = .ok .reset ∧ encode .reset = 0x90000000
  ∧ decode 0xA0000001 = .ok (.stats 1) ∧ encode (.stats 1) = 0xA0000001
  ∧ decode 0xB0000000 = .ok (.status 0) ∧ encode (.status 0) = 0xB0000000
  ∧ decode 0xB0000005 = .ok (.status 5) ∧ encode (.status 5) = 0xB0000005
  ∧ decode 0x00000000 = .illegal .opcode
  ∧ decode 0x11000041 = .illegal .reserved
  ∧ decode 0x10000141 = .illegal .operand
  ∧ decode 0x70000003 = .illegal .operand
  ∧ decode 0xB0000006 = .illegal .operand
  ∧ decode 0xF0000000 = .illegal .opcode

/-! ## Steps and agents -/

/-- A step runs the decoded command: where the arbiter chooses a busy port whose word decodes to `i`, the step is `exec i` on that
port; around it the step only takes the choice off the arbiter's script and notes the port (00 R10, 30 R88). -/
def Obligations.StepRunsDecodedCommand : Prop :=
  ∀ (s : State) (p : Nat) (i : Instr), s.cfg.wellFormed = true → s.nextEvent = .port p → p < s.cfg.nport →
    (s.port p).busy = true → decode (s.port p).cmd = .ok i →
    step s = exec i { s.chosen with cur := p }

/-- The scripted choice of the arbiter is the agent that steps (00 R9). -/
def Obligations.StepTakesChosenAgent : Prop :=
  ∀ (s : State) (e : Event) (rest : List Event), s.cfg.wellFormed = true → s.schedule = e :: rest →
    step s = takeEvent e { s with schedule := rest }

/-- An illegal word is answered ILLEGAL in every state and nothing else of the block changes (43 R188). -/
def Obligations.IllegalWordAnswered : Prop :=
  ∀ (s : State) (p : Nat) (r : Reject), p < s.cfg.nport → (s.port p).busy = true → decode (s.port p).cmd = .illegal r →
    takeEvent (.port p) s =
      .next { s with cur := p, ports := s.ports.set p ((s.port p).answered ⟨.illegal, 0, []⟩) }

/-- The model refuses a configuration that violates a bound of 00 R7. -/
def Obligations.IllFormedConfigRefused : Prop :=
  ∀ s : State,
    (s.cfg.slots < s.cfg.qtx + s.cfg.qrx + 2 ∨ s.cfg.qtx < 1 ∨ s.cfg.qrx < 1 ∨ 2 ^ 26 ≤ s.cfg.qrx ∨ s.cfg.nport < 1
      ∨ s.cfg.payloadSize < 1 ∨ 32 < s.cfg.payloadSize ∨ 6 ≤ s.cfg.ackPipe) →
    step s = .refused .illFormedConfig

/-- An interrupt pulse is accepted and counted exactly when Ready, and dropped otherwise (60 R270). -/
def Obligations.IrqAcceptedWhenReady : Prop :=
  ∀ s : State,
    takeEvent .irq s =
      .next (if s.state = .receiving ∨ s.state = .transmitting then
        { s with evt := { s.evt with irq := true }, cntIrq := s.cntIrq + 1 } else s)

/-- The host places a command and its payload into an idle port (10 R36, 30 R84). A port that is busy has no HOST step enabled (00 R10):
that choosing one then changes nothing is the model's choice (log 2), and that a wrong payload is refused is too (log 7). -/
def Obligations.HostPlacesCommand : Prop :=
  ∀ (s : State) (p : Nat) (w : Word) (payload : List Byte), p < s.cfg.nport →
    takeEvent (.host p w payload) s =
      if (s.port p).busy = true then .next s
      else if payload.length = (decode w).payloadLength then
        .next { s with ports := s.ports.set p ⟨true, w, payload, .a, 0, (s.port p).replies⟩ }
      else .refused .payloadLength

/-- The `RST` step writes the reset values of 10 R43, leaves `LEN` within its range, makes every port idle without a response, and
issues no radio transaction (70 R290). -/
def Obligations.RstWritesResetValues : Prop :=
  ∀ s : State, ∃ t, takeEvent .rst s = .next t
    ∧ t.state = .stopped ∧ t.role = .prx ∧ t.mode = .ptxOnly ∧ t.errCause = none ∧ t.evt = {} ∧ t.reuse = false
    ∧ t.rxdef = false ∧ t.stopPolls = 0
    ∧ (t.owner.length = s.cfg.slots ∧ ∀ o ∈ t.owner, o = .free)
    ∧ (t.len.length = s.cfg.slots ∧ ∀ n ∈ t.len, n ≤ 32)
    ∧ t.txq = [] ∧ t.rxq = [] ∧ t.fill = none ∧ t.fillPos = 0 ∧ t.drain = none ∧ t.drainPos = 0
    ∧ t.cntIrq = 0 ∧ t.cntSent = 0 ∧ t.cntMaxRt = 0 ∧ t.cntRx = 0
    ∧ (t.ports.length = s.ports.length ∧ ∀ p, (t.port p).busy = false ∧ (t.port p).replies = (s.port p).replies)
    ∧ t.rtrace = s.rtrace ∧ t.cfg = s.cfg

/-- The registers right after power-on, for every configuration (10 R43). That `LEN` is 0 is the model's choice (log 4) and not stated. -/
def Obligations.PowerOnRegisters : Prop :=
  ∀ (c : Config) (s : State), s = State.powerOn c →
    s.state = .stopped ∧ s.role = .prx ∧ s.mode = .ptxOnly ∧ s.errCause = none ∧ s.evt = {} ∧ s.reuse = false
    ∧ s.rxdef = false ∧ s.stopPolls = 0 ∧ s.freeCount = c.slots ∧ (∀ h, s.ownerAt h = .free)
    ∧ s.txq = [] ∧ s.rxq = [] ∧ s.fill = none ∧ s.fillPos = 0 ∧ s.drain = none ∧ s.drainPos = 0
    ∧ s.cntIrq = 0 ∧ s.cntSent = 0 ∧ s.cntMaxRt = 0 ∧ s.cntRx = 0
    ∧ (s.ports.length = c.nport ∧ ∀ p, (s.port p).busy = false)
    ∧ s.rtrace = [] ∧ s.ready = false

/-! ## PUT, WRITE, FLUSH -/

/-- A PUT with room in the fill packet appends its byte at the fill position and responds OK (41 R131). -/
def Obligations.PutAppendsByte : Prop :=
  ∀ (s : State) (b : BitVec 8), Consistent s → s.cur < s.cfg.nport → s.ready = true → (s.port s.cur).phase = .a →
    s.fillPos < 31 →
    ∃ h t, s.fill = some h ∧ exec (.put b) s = .next t
      ∧ AnsweredOnly s t s.cur ⟨.ok, 0, []⟩
      ∧ t.byteAt h s.fillPos = b
      ∧ (∀ a, a ≠ slotAddr h s.fillPos → Memory.read? t.data a = Memory.read? s.data a)
      ∧ { t with ports := s.ports, data := s.data } = { s with fillPos := s.fillPos + 1 }

/-- A PUT of the 32nd byte with room in the transmit queue completes the packet and flushes it in the same step (41 R130, R131). -/
def Obligations.PutFlushesFullPacket : Prop :=
  ∀ (s : State) (b : BitVec 8), Consistent s → s.cur < s.cfg.nport → s.ready = true → (s.port s.cur).phase = .a →
    s.fillPos = 31 → s.txq.length < s.cfg.qtx →
    ∃ h h' t, s.fill = some h ∧ exec (.put b) s = .next t
      ∧ AnsweredOnly s t s.cur ⟨.ok, 0, []⟩
      ∧ t.lenAt h = 32 ∧ t.byteAt h 31 = b ∧ t.txq = s.txq ++ [h] ∧ t.ownerAt h = .txq
      ∧ t.evt = { s.evt with txp := true }
      ∧ t.fill = some h' ∧ t.fillPos = 0 ∧ t.ownerAt h' = .fill ∧ s.ownerAt h' = .free ∧ (∀ k < h', s.ownerAt k ≠ .free)
      ∧ t.unsent = s.unsent ++ [b]

/-- A PUT of the 32nd byte with the transmit queue full keeps its byte and waits in phase B without a response; in phase B it
flushes the full packet once there is room, or finds it already flushed, and responds OK (41 R131). -/
def Obligations.PutWaitsThenFlushes : Prop :=
  ∀ (s : State) (b : BitVec 8), Consistent s → s.cur < s.cfg.nport → s.ready = true →
    ((s.port s.cur).phase = .a → s.fillPos = 31 → s.txq.length = s.cfg.qtx →
      ∃ t, exec (.put b) s = .next t ∧ t.ports = s.ports.set s.cur { s.port s.cur with phase := .b }
        ∧ t.fillPos = 32 ∧ t.txq = s.txq ∧ t.unsent = s.unsent ++ [b])
    ∧ ((s.port s.cur).phase = .b → s.fillPos = 32 → s.txq.length < s.cfg.qtx →
      ∃ h t, s.fill = some h ∧ exec (.put b) s = .next t ∧ AnsweredOnly s t s.cur ⟨.ok, 0, []⟩
        ∧ t.txq = s.txq ++ [h] ∧ t.lenAt h = 32 ∧ t.evt = { s.evt with txp := true } ∧ t.fillPos = 0
        ∧ t.unsent = s.unsent)
    ∧ ((s.port s.cur).phase = .b → s.fillPos < 32 →
      exec (.put b) s = .next { s with ports := s.ports.set s.cur ((s.port s.cur).answered ⟨.ok, 0, []⟩) })

/-- One step of a WRITE in phase A appends the next chunk, `k` bytes up to the end of the fill packet, to the stream, and then
responds, goes on, or waits in phase B as 41 R132 says. -/
def Obligations.WriteAppendsChunk : Prop :=
  ∀ (s : State) (n : BitVec 24) (slot : Port) (k : Nat), Consistent s → s.cur < s.cfg.nport → s.ready = true →
    slot = s.port s.cur → slot.busy = true → decode slot.cmd = .ok (.write n) → slot.phase = .a → slot.done < n.toNat →
    s.fillPos < 32 → k = min (n.toNat - slot.done) (32 - s.fillPos) →
    ∃ t, exec (.write n) s = .next t
      ∧ t.unsent = s.unsent ++ (slot.wdata.drop slot.done).take k
      ∧ (if s.fillPos + k < 32 then
          t.ports = s.ports.set s.cur (Port.answered { slot with done := n.toNat } ⟨.ok, n.setWidth 32, []⟩)
            ∧ t.fillPos = s.fillPos + k ∧ t.fill = s.fill ∧ t.txq = s.txq ∧ t.evt = s.evt
        else if s.txq.length < s.cfg.qtx then
          (if slot.done + k = n.toNat then
              t.ports = s.ports.set s.cur (Port.answered { slot with done := n.toNat } ⟨.ok, n.setWidth 32, []⟩)
            else t.ports = s.ports.set s.cur { slot with done := slot.done + k })
            ∧ t.fillPos = 0 ∧ (∃ h, s.fill = some h ∧ t.txq = s.txq ++ [h] ∧ t.lenAt h = 32)
            ∧ t.evt = { s.evt with txp := true }
        else
          t.ports = s.ports.set s.cur { slot with done := slot.done + k, phase := .b }
            ∧ t.fillPos = 32 ∧ t.fill = s.fill ∧ t.txq = s.txq ∧ t.evt = s.evt)

/-- A WRITE with no byte left responds OK with its count, a WRITE of no bytes at once (41 R132). -/
def Obligations.WriteCompletes : Prop :=
  ∀ (s : State) (n : BitVec 24), s.ready = true → (s.port s.cur).phase = .a → (s.port s.cur).done = n.toNat →
    exec (.write n) s = .next { s with ports := s.ports.set s.cur ((s.port s.cur).answered ⟨.ok, n.setWidth 32, []⟩) }

/-- A WRITE in phase B flushes the full packet once there is room, or finds it already flushed, and then responds or goes on to its
next chunk; no byte moves between the stream and the command (41 R132). -/
def Obligations.WriteResumesAfterWait : Prop :=
  ∀ (s : State) (n : BitVec 24) (slot : Port), Consistent s → s.cur < s.cfg.nport → s.ready = true →
    slot = s.port s.cur → slot.phase = .b → (s.fillPos < 32 ∨ s.txq.length < s.cfg.qtx) →
    ∃ t, exec (.write n) s = .next t ∧ t.unsent = s.unsent
      ∧ (if slot.done = n.toNat then t.ports = s.ports.set s.cur (slot.answered ⟨.ok, n.setWidth 32, []⟩)
        else t.ports = s.ports.set s.cur { slot with phase := .a })
      ∧ (if s.fillPos = 32 then
          t.fillPos = 0 ∧ (∃ h, s.fill = some h ∧ t.txq = s.txq ++ [h] ∧ t.lenAt h = 32) ∧ t.evt = { s.evt with txp := true }
        else t.fillPos = s.fillPos ∧ t.fill = s.fill ∧ t.txq = s.txq ∧ t.evt = s.evt)

/-- FLUSH: nothing to flush is a no-op returning success; otherwise the fill packet, with its length, goes to the end of the transmit
queue, the loop is signalled and the lowest free slot becomes the fill packet (41 R130, R133). -/
def Obligations.FlushEnqueuesFillPacket : Prop :=
  ∀ s : State, s.cur < s.ports.length → s.ready = true →
    (s.fillPos = 0 →
      exec .flush s = .next { s with ports := s.ports.set s.cur ((s.port s.cur).answered ⟨.ok, 0, []⟩) })
    ∧ (Consistent s → 0 < s.fillPos → s.txq.length < s.cfg.qtx →
      ∃ h h' t, s.fill = some h ∧ exec .flush s = .next t ∧ AnsweredOnly s t s.cur ⟨.ok, 0, []⟩
        ∧ t.lenAt h = s.fillPos ∧ t.txq = s.txq ++ [h] ∧ t.ownerAt h = .txq ∧ t.evt = { s.evt with txp := true }
        ∧ t.fill = some h' ∧ t.fillPos = 0 ∧ t.ownerAt h' = .fill ∧ s.ownerAt h' = .free ∧ (∀ k < h', s.ownerAt k ≠ .free)
        ∧ t.data = s.data ∧ t.unsent = s.unsent)

/-! ## GET, READ, AVAIL -/

/-- GET returns the oldest unread byte and takes it off the stream, adopting the next packet where it must (42 R160 to R162). -/
def Obligations.GetReturnsOldestByte : Prop :=
  ∀ s : State, Consistent s → s.cur < s.cfg.nport → s.ready = true → (s.drain ≠ none ∨ s.rxq ≠ []) →
    ∃ b rest t, s.unread = b :: rest ∧ exec .get s = .next t
      ∧ AnsweredOnly s t s.cur ⟨.ok, b.setWidth 32, []⟩
      ∧ t.unread = rest
      ∧ t.evt = { s.evt with fetch := s.evt.fetch || s.drain.isNone }

/-- READ returns the first `maxN` unread bytes, or all there are, in stream order, and takes exactly those off the stream; it signals
the loop exactly when it takes a packet off the receive queue (42 R163, R165). -/
def Obligations.ReadTakesUnreadPrefix : Prop :=
  ∀ (s : State) (maxN : BitVec 24), Consistent s → s.cur < s.cfg.nport → s.ready = true →
    (maxN = 0 ∨ s.drain ≠ none ∨ s.rxq ≠ []) →
    ∃ t, exec (.read maxN) s = .next t
      ∧ AnsweredOnly s t s.cur
          ⟨.ok, BitVec.ofNat 32 (min maxN.toNat s.unread.length), s.unread.take maxN.toNat⟩
      ∧ t.unread = s.unread.drop maxN.toNat
      ∧ t.evt = { s.evt with fetch := s.evt.fetch || decide (t.rxq.length < s.rxq.length) }

/-- AVAIL returns the number of unread bytes and changes nothing (42 R164). -/
def Obligations.AvailCountsUnreadBytes : Prop :=
  ∀ s : State, Consistent s → s.ready = true →
    exec .avail s =
      .next { s with ports := s.ports.set s.cur ((s.port s.cur).answered ⟨.ok, BitVec.ofNat 32 s.unread.length, []⟩) }

/-! ## Held and refused commands -/

/-- A byte-stream command whose guard is false is held: its port takes no step and nothing changes (00 R10, 41 R134, 42 R166). -/
def Obligations.HeldCommandWaits : Prop :=
  ∀ (s : State), s.ready = true →
    (∀ b, 32 ≤ s.fillPos → ((s.port s.cur).phase = .a ∨ s.cfg.qtx ≤ s.txq.length) → exec (.put b) s = .next s)
    ∧ (∀ n : BitVec 24, 32 ≤ s.fillPos →
        (((s.port s.cur).phase = .a ∧ (s.port s.cur).done ≠ n.toNat)
          ∨ ((s.port s.cur).phase = .b ∧ s.cfg.qtx ≤ s.txq.length)) → exec (.write n) s = .next s)
    ∧ (0 < s.fillPos → s.cfg.qtx ≤ s.txq.length → exec .flush s = .next s)
    ∧ (s.drain = none → s.rxq = [] → exec .get s = .next s)
    ∧ (∀ maxN, maxN ≠ 0 → s.drain = none → s.rxq = [] → exec (.read maxN) s = .next s)

/-- Where the adapter is not Ready, every byte-stream command responds NOTREADY at once and is never held, a WRITE's value being the count
of bytes it had appended; a lifecycle command that does not find its "from" state responds REJECTED; and either changes nothing else
(60 R261, 20 R71). -/
def Obligations.RefusedCommandsChangeNothing : Prop :=
  ∀ s : State,
    (s.ready = false →
      (∀ b, exec (.put b) s = .next (s.respond .notReady 0 []))
      ∧ (∀ n, exec (.write n) s = .next (s.respond .notReady (toRval (s.port s.cur).done) []))
      ∧ exec .flush s = .next (s.respond .notReady 0 [])
      ∧ exec .get s = .next (s.respond .notReady 0 [])
      ∧ (∀ m, exec (.read m) s = .next (s.respond .notReady 0 []))
      ∧ exec .avail s = .next (s.respond .notReady 0 []))
    ∧ (∀ m : Mode, s.state ≠ .stopped → exec (.start m.code) s = .next (s.respond .rejected 0 []))
    ∧ (s.state ≠ .receiving → s.state ≠ .transmitting → exec .stop s = .next (s.respond .rejected 0 []))
    ∧ (s.state ≠ .error → exec .reset s = .next (s.respond .rejected 0 []))

/-! ## START, STOP, RESET, STATS, STATUS -/

/-- START, the word 0x7000000m. In STOPPED: the mode is latched, every slot is freed, slot 0 becomes the fill packet, the event and
retry flags are cleared; `ROLE`, `ERRCAUSE` and the counters are not written. In every other state: REJECTED, and nothing else changes
(43 R180). -/
def Obligations.StartLeavesStopped : Prop :=
  ∀ (s : State) (m : Mode), s.cfg.wellFormed = true → s.cur < s.ports.length →
    encode (.start m.code) = 0x70000000 + m.code.setWidth 32
    ∧ (s.state = .stopped →
      ∃ t, exec (.start m.code) s = .next t ∧ AnsweredOnly s t s.cur ⟨.ok, 0, []⟩
        ∧ { t with ports := s.ports } =
            { s with
              state := .starting, mode := m, owner := .fill :: List.replicate (s.cfg.slots - 1) .free
              txq := [], rxq := [], fill := some 0, fillPos := 0, drain := none, drainPos := 0
              evt := {}, reuse := false, rxdef := false, stopPolls := 0 })
    ∧ (s.state ≠ .stopped →
      exec (.start m.code) s = .next { s with ports := s.ports.set s.cur ((s.port s.cur).answered ⟨.rejected, 0, []⟩) })

/-- STOP in a Ready state: STOPPING, the stop event raised, the poll count cleared, OK on its own port; every other port that holds a
byte-stream command is answered NOTREADY in the same step, and every other port is left alone (43 R182, R183). -/
def Obligations.StopReleasesCallers : Prop :=
  ∀ s : State, s.cur < s.ports.length → s.ready = true →
    ∃ t, exec .stop s = .next t
      ∧ { t with ports := s.ports } = { s with state := .stopping, evt := { s.evt with stop := true }, stopPolls := 0 }
      ∧ t.ports.length = s.ports.length
      ∧ ∀ q < s.ports.length,
          t.port q =
            if q = s.cur then (s.port q).answered ⟨.ok, 0, []⟩
            else if (s.port q).busy = true ∧ (decode (s.port q).cmd).byteStream = true then
              (s.port q).answered
                ⟨.notReady, if (decode (s.port q).cmd).isWrite = true then toRval (s.port q).done else 0, []⟩
            else s.port q

/-- RESET, the word 0x90000000. In ERROR: STOPPED with no cause, an empty pool, queues, fill and drain, and the flags cleared; `MODE`,
`ROLE` and the counters are not written, and no radio transaction is issued. In every other state: REJECTED, and nothing else changes
(43 R184). -/
def Obligations.ResetLeavesError : Prop :=
  encode .reset = 0x90000000
  ∧ ∀ s : State, s.cur < s.ports.length →
    (s.state = .error →
      ∃ t, exec .reset s = .next t ∧ AnsweredOnly s t s.cur ⟨.ok, 0, []⟩
        ∧ { t with ports := s.ports } =
            { s with
              state := .stopped, errCause := none, owner := List.replicate s.cfg.slots .free
              txq := [], rxq := [], fill := none, fillPos := 0, drain := none, drainPos := 0
              evt := {}, reuse := false, rxdef := false, stopPolls := 0 })
    ∧ (s.state ≠ .error →
      exec .reset s = .next { s with ports := s.ports.set s.cur ((s.port s.cur).answered ⟨.rejected, 0, []⟩) })

/-- STATS, the word 0xA000000s, returns the selected counter, in every state, and changes nothing else (43 R186). -/
def Obligations.StatsReadsCounter : Prop :=
  ∀ (s : State) (sel : BitVec 2),
    encode (.stats sel) = 0xA0000000 + sel.setWidth 32
    ∧ exec (.stats sel) s =
      .next { s with
        ports := s.ports.set s.cur ((s.port s.cur).answered
          ⟨.ok, if sel = 0 then s.cntIrq else if sel = 1 then s.cntSent else if sel = 2 then s.cntMaxRt else s.cntRx, []⟩) }

/-- STATUS returns the state word, with the codes of its fields, or the selected count, in every state, and changes nothing else; a count
that does not fit 32 bits is not stated (log 10) (43 R187; 30 R90, R91, R92, R94, R98). -/
def Obligations.StatusReadsControlState : Prop :=
  ∀ (s : State) (sel : BitVec 3), s.cur < s.ports.length → sel.toNat ≤ 5 →
    s.freeCount < 2 ^ 32 → s.txq.length < 2 ^ 32 → s.rxq.length < 2 ^ 32 → s.fillPos < 2 ^ 32 → s.drainRemainder < 2 ^ 32 →
    ∃ v : Word,
      exec (.status sel) s = .next { s with ports := s.ports.set s.cur ((s.port s.cur).answered ⟨.ok, v, []⟩) }
      ∧ v.toNat =
          match sel.toNat with
          | 0 =>
              (match s.state with
                | .stopped => 0 | .starting => 1 | .receiving => 2 | .transmitting => 3 | .stopping => 4 | .error => 5)
              + 8 * (match s.mode with | .ptxOnly => 0 | .prxOnly => 1 | .adhoc => 2)
              + 32 * (match s.role with | .prx => 0 | .ptx => 1)
              + 64 * (match s.errCause with
                | none => 0 | some .poolExhausted => 1 | some .doubleFree => 2 | some .foreignHandle => 3
                | some .queueOverflow => 4 | some .queueUnderflow => 5)
              + 512 * (s.evt.stop.toNat + 2 * s.evt.irq.toNat + 4 * s.evt.txp.toNat + 8 * s.evt.fetch.toNat)
              + 8192 * s.reuse.toNat + 16384 * s.rxdef.toNat
          | 1 => s.freeCount
          | 2 => s.txq.length
          | 3 => s.rxq.length
          | 4 => s.fillPos
          | _ => match s.drain with | none => 0 | some h => s.lenAt h - s.drainPos

/-! ## Faults and ERROR -/

/-- The behaviour of every command and agent in ERROR (60 R266). -/
def Obligations.ErrorFailsFast : Prop :=
  ∀ s : State, s.state = .error →
    (∀ b, exec (.put b) s = .next (s.respond .notReady 0 []))
    ∧ (∀ n, exec (.write n) s = .next (s.respond .notReady (toRval (s.port s.cur).done) []))
    ∧ exec .flush s = .next (s.respond .notReady 0 [])
    ∧ exec .get s = .next (s.respond .notReady 0 [])
    ∧ (∀ m, exec (.read m) s = .next (s.respond .notReady 0 []))
    ∧ exec .avail s = .next (s.respond .notReady 0 [])
    ∧ (∀ m : Mode, exec (.start m.code) s = .next (s.respond .rejected 0 []))
    ∧ exec .stop s = .next (s.respond .rejected 0 [])
    ∧ (∃ t, exec .reset s = .next t ∧ t.state = .stopped ∧ t.ports = (s.respond .ok 0 []).ports)
    ∧ (∀ sel, ∃ v, exec (.stats sel) s = .next (s.respond .ok v []))
    ∧ (∀ sel : BitVec 3, sel.toNat ≤ 5 → ∃ v, exec (.status sel) s = .next (s.respond .ok v [])
        ∧ (sel = 0 → v.extractLsb' 6 3 = causeCode s.errCause))
    ∧ (∀ p r, p < s.cfg.nport → (s.port p).busy = true → decode (s.port p).cmd = .illegal r →
        takeEvent (.port p) s = .next ({ s with cur := p }.respond .illegal 0 []))
    ∧ takeEvent .el s = .next s
    ∧ takeEvent .irq s = .next s
    ∧ takeEvent .rst s = .next s.afterRst

/-- Error entry writes `STATE`, `ERRCAUSE` and the ports and nothing else: the faulting port is answered FATAL, every other port with a
byte-stream command NOTREADY, and in a step of the event loop every such port NOTREADY (60 R265, 43 R183). -/
def Obligations.ErrorEntry : Prop :=
  ∀ (c : Cause) (s : State) (port : Option Nat), (∀ p ∈ port, p < s.ports.length) →
    { enterError c port s with ports := s.ports } = { s with state := .error, errCause := some c }
    ∧ (enterError c port s).ports.length = s.ports.length
    ∧ ∀ q < s.ports.length,
        (enterError c port s).port q =
          if port = some q then
            (s.port q).answered
              ⟨.fatal, if (decode (s.port q).cmd).isWrite = true then toRval (s.port q).done else 0, []⟩
          else if (s.port q).busy = true ∧ (decode (s.port q).cmd).byteStream = true then
            (s.port q).answered
              ⟨.notReady, if (decode (s.port q).cmd).isWrite = true then toRval (s.port q).done else 0, []⟩
          else s.port q

/-- A FLUSH that finds the pool empty once its packet is enqueued enters ERROR with the packet in the queue, the event raised and no
fill packet (41 R130, 60 R262). No run of a well-formed configuration reaches this. -/
def Obligations.FlushOnEmptyPoolIsFatal : Prop :=
  ∀ (s : State) (h : Nat), s.cur < s.ports.length → s.ready = true → 0 < s.fillPos → s.txq.length < s.cfg.qtx →
    s.fill = some h → h < s.cfg.slots → s.freeCount = 0 → (decode (s.port s.cur).cmd).isWrite = false →
    ∃ t, exec .flush s = .next t ∧ t.state = .error ∧ t.errCause = some .poolExhausted
      ∧ t.txq = s.txq ++ [h] ∧ t.evt = { s.evt with txp := true } ∧ t.fill = none ∧ t.fillPos = 0
      ∧ t.port s.cur = (s.port s.cur).answered ⟨.fatal, 0, []⟩

/-- PoolAlloc gives the lowest free slot its new tag and is fatal on an empty pool (40 R112); PoolFree frees a slot and is fatal on a
foreign handle, checked first, and on a free slot (40 R114). -/
def Obligations.PoolAllocAndFree : Prop :=
  ∀ (s : State) (tag : Owner), s.owner.length = s.cfg.slots →
    (s.freeCount = 0 → poolAlloc tag s = .fatal .poolExhausted s)
    ∧ (s.freeCount ≠ 0 → ∃ h, h < s.cfg.slots ∧ s.ownerAt h = .free ∧ (∀ k < h, s.ownerAt k ≠ .free)
        ∧ poolAlloc tag s = .ok h { s with owner := s.owner.set h tag })
    ∧ poolFree none s = .fatal .foreignHandle s
    ∧ (∀ h, poolFree (some h) s =
        if s.cfg.slots ≤ h then .fatal .foreignHandle s
        else if s.ownerAt h = .free then .fatal .doubleFree s
        else .ok () { s with owner := s.owner.set h .free })

/-! ## The event loop -/

/-- EL_START commands the role of the configured mode (44 R211). -/
def Obligations.ElStartTakesRole : Prop :=
  ∀ s : State, s.state = .starting →
    takeEvent .el s =
      .next (if s.mode = .ptxOnly then
        { s with rtrace := s.rtrace ++ [.becomeTx], role := .ptx, state := .transmitting }
      else { s with rtrace := s.rtrace ++ [.beginListening], role := .prx, state := .receiving })

/-- The event loop takes no step in STOPPED and ERROR, nor in a Ready state with no pending signal (44 R210, R224). -/
def Obligations.LoopWaitsForSignal : Prop :=
  ∀ s : State,
    (s.state = .stopped ∨ s.state = .error
      ∨ (s.ready = true ∧ s.evt.irq = false ∧ s.evt.txp = false ∧ s.evt.fetch = false)) →
    takeEvent .el s = .next s

/-- A step of the event loop in a Ready state consumes `EVT.IRQ`, `EVT.TXP` and `EVT.FETCH` and keeps `EVT.STOP`; only an ADHOC fall-back
with packets queued raises `EVT.TXP` again. It counts each flag of the one status it polls for a pending interrupt. `dataSent` clears
`REUSE`, before a retry exhaustion while transmitting spends the resend or ends the retry; only ADHOC clears it besides. The step leaves
`MODE`, the fill slot, the drain slot and `STOPPOLLS` alone, and the ports and `ERRCAUSE` too unless it faults (44 R212, R214, R215, R216;
10 R35). -/
def Obligations.LoopCountsHandledFlags : Prop :=
  ∀ (s t : State) (sent exhausted received clean : Bool), s.ready = true → takeEvent .el s = .next t →
    sent = (s.evt.irq && s.answer.status.dataSent) →
    exhausted = (s.evt.irq && s.answer.status.maxRetriesExceeded) →
    received = (s.evt.irq && s.answer.status.dataReceived) →
    clean = (sent || !s.reuse) →
    t.evt = { s.evt with
      irq := false, fetch := false
      txp := exhausted && !clean && decide (s.state = .transmitting ∧ s.mode = .adhoc ∧ s.txq ≠ []) }
    ∧ t.cntIrq = s.cntIrq
    ∧ t.cntSent = s.cntSent + (if sent then 1 else 0)
    ∧ t.cntMaxRt = s.cntMaxRt + (if exhausted then 1 else 0)
    ∧ t.cntRx = s.cntRx + (if received then 1 else 0)
    ∧ (t.reuse = (if exhausted = true ∧ s.state = .transmitting then clean else !clean) ∨ (s.mode = .adhoc ∧ t.reuse = false))
    ∧ t.mode = s.mode ∧ t.fill = s.fill ∧ t.fillPos = s.fillPos ∧ t.drain = s.drain ∧ t.drainPos = s.drainPos
    ∧ t.stopPolls = s.stopPolls ∧ t.cfg = s.cfg
    ∧ (t.ports = s.ports ∧ t.errCause = s.errCause ∨ t.state = .error)

/-- One iteration of the event loop, in its order: the pending signals are consumed; a pending interrupt is polled and handled, sent, then
retry-exhausted, then received; a pending fetch resumes a deferred fill; ADHOC that is receiving with packets queued switches to transmit
unless it fell back in this step; the transmit queue is drained; ADHOC that is transmitting with nothing queued turns around (44 R212, R214,
R220). Handling: `dataSent` clears `REUSE`, an exhaustion while transmitting runs the retry policy, `dataReceived` fills. The retry policy:
one resend, then the packet is given up, which in ADHOC falls back to receiving and re-raises the transmit signal where packets wait (44
R215, R216); and the two ADHOC direction switches (44 R219, R222). -/
def Obligations.RetryAndDirectionSwitches : Prop :=
  ∀ s : State,
    (s.ready = true → s.evt.pending = true →
      takeEvent .el s =
        (((if s.evt.irq = true then handleIrq { s with evt := { s.evt with irq := false, txp := false, fetch := false } }
          else .ok false { s with evt := { s.evt with irq := false, txp := false, fetch := false } }).bind fun fellBack u =>
        (if s.evt.fetch = true ∧ u.rxdef = true then
          rxFill u.answer.status.dataReceived { u.drawn with rtrace := u.rtrace ++ [.poll false u.answer.status] }
          else .ok () u).bind fun _ v =>
        (txDrain (if v.mode = .adhoc ∧ v.state = .receiving ∧ v.txq ≠ [] ∧ fellBack = false then switchToTx v else v)).bind fun _ w =>
        .ok () (if w.mode = .adhoc ∧ w.state = .transmitting ∧ w.txq = [] then turnaround w else w)).endLoop))
    ∧ (∀ (a : RadioStatus) (u v : State) (fellBack : Bool), a = s.answer.status →
      u = { s.drawn with
        rtrace := s.rtrace ++ [.poll true a]
        cntSent := s.cntSent + (if a.dataSent then 1 else 0), reuse := s.reuse && !a.dataSent
        cntMaxRt := s.cntMaxRt + (if a.maxRetriesExceeded then 1 else 0) } →
      (fellBack, v) = (if a.maxRetriesExceeded = true ∧ s.state = .transmitting then retry u else (false, u)) →
      handleIrq s =
        if a.dataReceived = true then (rxFill true { v with cntRx := v.cntRx + 1 }).bind fun _ w => .ok fellBack w
        else .ok fellBack v)
    ∧ retry s =
      (if s.reuse = false then (false, { s with rtrace := s.rtrace ++ [.resend], reuse := true })
      else if s.mode ≠ .adhoc then (false, { s with reuse := false })
      else
        (true,
          { s with
            reuse := false, rtrace := s.rtrace ++ [.beginListening], role := .prx, state := .receiving
            evt := { s.evt with txp := s.evt.txp || decide (s.txq ≠ []) } }))
    ∧ switchToTx s = { s with rtrace := s.rtrace ++ [.becomeTx], role := .ptx, state := .transmitting, reuse := false }
    ∧ turnaround s =
        if s.answer.flag = true then
          { s.drawn with
            rtrace := s.rtrace ++ [.txEmpty true, .beginListening], role := .prx, state := .receiving, reuse := false }
        else { s.drawn with rtrace := s.rtrace ++ [.txEmpty false] }

/-- RX_FILL stops where the radio has no data, defers on a full queue or an empty pool, and takes no slot on a failed read; the length is
asked of the radio where `DYNPD` is true and is `PAYLOAD_SIZE` where it is false, which fails only in an ill-formed configuration (44
R217). -/
def Obligations.RxFillStopsOrDefers : Prop :=
  ∀ (s : State) (avail : Bool),
    (avail = false → rxFill avail s = .ok () { s with rxdef := false })
    ∧ (avail = true → (s.rxq.length = s.cfg.qrx ∨ s.freeCount = 0) → rxFill avail s = .ok () { s with rxdef := true })
    ∧ (avail = true → s.rxq.length ≠ s.cfg.qrx → s.freeCount ≠ 0 → s.cfg.dynpd = true →
        (s.answer.length.toNat = 0 ∨ 32 < s.answer.length.toNat) →
        rxFill avail s = .ok () { s.drawn with rtrace := s.rtrace ++ [.rxLen s.answer.length], rxdef := false })
    ∧ (avail = true → s.rxq.length ≠ s.cfg.qrx → s.freeCount ≠ 0 → s.cfg.dynpd = false →
        (s.cfg.payloadSize = 0 ∨ 32 < s.cfg.payloadSize) →
        s.cfg.wellFormed = false ∧ rxFill avail s = .ok () { s with rxdef := false })

/-- One pass of RX_FILL: the length `n` is asked of the radio where `DYNPD` is true and is `PAYLOAD_SIZE`, with no transaction, where it is
false; then `n` bytes are read into the lowest free slot, which goes last in the receive queue, and RX_FILL goes on from there with the
answer of a poll that does not reset; without further data it ends (44 R217). -/
def Obligations.RxFillLoadsPacket : Prop :=
  ∀ (s u : State) (n : Nat) (bytes : List Byte), Consistent s → s.rxq.length < s.cfg.qrx →
    ((s.cfg.dynpd = true ∧ n = s.answer.length.toNat ∧ u = { s.drawn with rtrace := s.rtrace ++ [.rxLen s.answer.length] })
      ∨ (s.cfg.dynpd = false ∧ n = s.cfg.payloadSize ∧ u = s)) →
    1 ≤ n → n ≤ 32 → bytes = u.answer.payload.toList.take n →
    ∃ (h : Nat) (t : State), s.ownerAt h = .free ∧ (∀ k < h, s.ownerAt k ≠ .free)
      ∧ t.rxq = s.rxq ++ [h] ∧ t.ownerAt h = .rxq ∧ t.lenAt h = n ∧ bytes.length = n ∧ t.packet h = bytes
      ∧ (∀ a, Memory.read? t.data a =
          if slotAddr h 0 ≤ a ∧ a < slotAddr h 0 + n then bytes[a - slotAddr h 0]? else Memory.read? s.data a)
      ∧ (∀ k, k ≠ h → t.ownerAt k = s.ownerAt k ∧ t.lenAt k = s.lenAt k)
      ∧ { t with owner := s.owner, len := s.len, data := s.data, rxq := s.rxq } =
          { u.drawn with rtrace := u.rtrace ++ [.rxPayload n bytes] }
      ∧ rxFill true s =
          rxFill t.answer.status.dataReceived { t.drawn with rtrace := t.rtrace ++ [.poll false t.answer.status] }
      ∧ (t.answer.status.dataReceived = false →
          rxFill true s = .ok () { t.drawn with rtrace := t.rtrace ++ [.poll false t.answer.status], rxdef := false })

/-- TX_DRAIN does nothing with no packet queued, or listening outside PRX_ONLY. Otherwise it asks for room before every packet and stops
where there is none; it hands the head of the queue to the radio, as a packet to send where `ROLE` is PTX and as an acknowledgement payload
where it is PRX, and frees the slot; it goes on with the next packet, and ends on a packet not submitted (44 R218). `u` and `v` are the
state after one and after two radio answers. -/
def Obligations.TxDrainHandsOffHead : Prop :=
  ∀ s : State,
    (s.txq = [] → txDrain s = .ok () s)
    ∧ (s.role = .prx → s.mode ≠ .prxOnly → txDrain s = .ok () s)
    ∧ ∀ (u v : State) (h : Nat) (q : List Nat), Consistent s → s.txq = h :: q → u = s.drawn → v = u.drawn →
      (s.role = .ptx ∨ s.mode = .prxOnly → s.answer.flag = true →
        txDrain s = .ok () { u with rtrace := s.rtrace ++ [.txFull true] })
      ∧ (s.role = .ptx → s.answer.flag = false → u.answer.flag = false →
        txDrain s = .ok ()
          { v with
            txq := q, owner := s.owner.set h .free
            rtrace := s.rtrace ++ [.txFull false, .send (s.packet h) (s.lenAt h) true false] })
      ∧ (s.role = .ptx → s.answer.flag = false → u.answer.flag = true →
        txDrain s = txDrain
          { v with
            txq := q, owner := s.owner.set h .free
            rtrace := s.rtrace ++ [.txFull false, .send (s.packet h) (s.lenAt h) true true] })
      ∧ (s.role = .prx → s.mode = .prxOnly → s.answer.flag = false →
        txDrain s = txDrain
          { u with
            txq := q, owner := s.owner.set h .free
            rtrace := s.rtrace ++ [.txFull false, .ackPayload s.cfg.ackPipe (s.packet h) (s.lenAt h)] })

/-- A step of the event loop in ADHOC that leaves the transmit queue empty leaves the block receiving, unless the radio's last answer was
that its transmit buffer is not empty, or a fault ended the step (44 R223). -/
def Obligations.AdhocTurnsAround : Prop :=
  ∀ s t : State, s.ready = true → s.mode = .adhoc → s.evt.pending = true → takeEvent .el s = .next t → t.txq = [] →
    t.state = .receiving ∨ t.state = .error
      ∨ (t.state = .transmitting ∧ ∃ pre, t.rtrace = pre ++ [.txEmpty false])

/-- Outside ADHOC the role never changes while Ready; a PTX_ONLY block hands no acknowledgement payload to the radio and a PRX_ONLY block
sends no packet (44 R221). -/
def Obligations.FixedRoleNeverOscillates : Prop :=
  ∀ s t : State, s.ready = true → s.mode ≠ .adhoc → takeEvent .el s = .next t →
    (t.state = s.state ∨ t.state = .error) ∧ t.role = s.role
    ∧ ∃ new, t.rtrace = s.rtrace ++ new
      ∧ (s.mode = .ptxOnly → s.role = .ptx → ∀ p d n, RadioTxn.ackPayload p d n ∉ new)
      ∧ (s.mode = .prxOnly → s.role = .prx → ∀ d n q a, RadioTxn.send d n q a ∉ new)

/-- Every byte a Ready step of the event loop hands to the radio comes off the front of the stream of accepted bytes, in order, and no
other byte leaves it (41 R135, 20 R72). -/
def Obligations.TransmitByteAccounting : Prop :=
  ∀ s t : State, Consistent s → s.ready = true → takeEvent .el s = .next t →
    ∃ new, t.rtrace = s.rtrace ++ new ∧ s.unsent = new.flatMap RadioTxn.handed ++ t.unsent

/-- Every byte a Ready step of the event loop receives from the radio goes to the end of the stream of unread bytes, in order, and
nothing leaves it (42 R165, 20 R73). -/
def Obligations.ReceiveByteAccounting : Prop :=
  ∀ s t : State, Consistent s → s.ready = true → takeEvent .el s = .next t →
    ∃ new, t.rtrace = s.rtrace ++ new ∧ t.unread = s.unread ++ new.flatMap RadioTxn.received

/-- A step of the event loop in STOPPING: ADHOC that was listening becomes the transmitter where packets are queued; the transmit queue is
drained, from every consistent state without a fault; then the stop finishes where nothing is queued and the radio reports its buffer empty,
or where the poll limit is reached, and counts one more poll otherwise. With nothing queued the drain does nothing. Finishing discards what
is left and keeps `MODE`, `ROLE` and the counters (44 R229, R230). -/
def Obligations.StopDrainFinalizes : Prop :=
  ∀ (s listening : State), s.state = .stopping →
    listening = (if s.mode = .adhoc ∧ s.role = .prx ∧ s.txq ≠ [] then
        { s with rtrace := s.rtrace ++ [.becomeTx], role := .ptx }
      else s) →
    (s.txq = [] → txDrain listening = .ok () s)
    ∧ (Consistent s → ∃ u, txDrain listening = .ok () u)
    ∧ ∀ u polled : State, txDrain listening = .ok () u →
      polled = (if u.txq = [] then { u.drawn with rtrace := u.rtrace ++ [.txEmpty u.answer.flag] } else u) →
      takeEvent .el s =
        .next (if (u.txq = [] ∧ u.answer.flag = true) ∨ ∃ l ∈ s.cfg.stopPollLimit, l ≤ u.stopPolls + 1 then
          { polled with
            state := .stopped, owner := List.replicate s.cfg.slots .free
            txq := [], rxq := [], fill := none, fillPos := 0, drain := none, drainPos := 0
            evt := {}, reuse := false, rxdef := false, stopPolls := 0 }
        else { polled with stopPolls := u.stopPolls + 1 })

/-- With a finite poll limit each step of the event loop in STOPPING finishes the stop or brings the poll count one nearer the limit, so
STOPPED is reached within that many steps (44 R229, R231). -/
def Obligations.StopEndsWithinPollLimit : Prop :=
  ∀ (s t : State) (l : Nat), Consistent s → s.state = .stopping → s.cfg.stopPollLimit = some l →
    takeEvent .el s = .next t →
    t.state = .stopped ∨ (t.state = .stopping ∧ t.stopPolls = s.stopPolls + 1 ∧ t.stopPolls < l)

/-! ## Whole-machine rules -/

/-- Only the event loop touches the radio: no other agent's step issues a radio transaction or draws an answer; and no step changes the
configuration (44 R225, 00 R6). -/
def Obligations.OnlyLoopTouchesRadio : Prop :=
  ∀ (e : Event) (s t : State), takeEvent e s = .next t →
    t.cfg = s.cfg ∧ (e ≠ .el → t.rtrace = s.rtrace ∧ t.answers = s.answers ∧ t.draws = s.draws)

/-- Every step delivers at most one response on each port, and only on a port whose command it completes (30 R85). -/
def Obligations.OneResponsePerCommand : Prop :=
  ∀ (s t : State) (p : Nat), step s = .next t →
    (t.port p).replies = (s.port p).replies
    ∨ ((s.port p).busy = true ∧ (t.port p).busy = false ∧ ∃ r, (t.port p).replies = (s.port p).replies ++ [r])

/-- Every change of `STATE` is an arc of the transition table, taken by the agent the table names, under the mode it names (43 R189). -/
def Obligations.TransitionTable : Prop :=
  ∀ s t : State, step s = .next t → t.state = s.state ∨ arc s.nextEvent s.mode s.state t.state = true

/-! ## Invariants -/

/-- Every step keeps the invariant of the registers, the tags and the ports; ERROR is never entered from it (10 R37, 40 R118). -/
def Obligations.ConsistentKept : Prop :=
  ∀ s t : State, Consistent s → step s = .next t → Consistent t

/-- The block right after power-on meets the invariants, for every well-formed configuration. -/
def Obligations.ConsistentAtPowerOn : Prop :=
  ∀ c : Config, c.wellFormed = true →
    Consistent (State.powerOn c) ∧ Memory.wf (State.powerOn c).data ∧ FullFillHeld (State.powerOn c) ∧ CauseAgrees (State.powerOn c)

/-- From the invariant no step stops at a fault of the model: no rule uses a handle or an index that names no byte (20 R61, R62). -/
def Obligations.NoFaultFromConsistent : Prop :=
  ∀ (s : State) (f : Fault), Consistent s → step s ≠ .fault f

/-- Every step keeps the canonical form of packet memory: the addresses of its cells strictly rise (log 19; 20 R60, R61). -/
def Obligations.MemoryCanonicalKept : Prop :=
  ∀ s t : State, Memory.wf s.data → step s = .next t → Memory.wf t.data

/-- Every step keeps: a cause is recorded exactly in ERROR, and the role is that of the Ready state (10 R21, R23). -/
def Obligations.CauseAndRoleKept : Prop :=
  ∀ s t : State, CauseAgrees s → step s = .next t → CauseAgrees t

/-- Every step keeps: the fill packet is empty in STARTING (43 R180), and in a Ready state a full fill packet is waited for by a PUT or
WRITE in phase B (41 R136). -/
def Obligations.FullFillHeldKept : Prop :=
  ∀ s t : State, Consistent s → FullFillHeld s → step s = .next t → FullFillHeld t

/-- Pool conservation: the free slots, the fill slot, the drain slot, the packets of both queues and the slots in flight or loading
add up to the pool (40 R117). -/
def Obligations.PoolConserved : Prop :=
  ∀ s : State, Consistent s →
    s.freeCount + s.fill.isSome.toNat + s.drain.isSome.toNat + s.txq.length + s.rxq.length
      + s.owner.count .inflight + s.owner.count .loading = s.cfg.slots

/-! ## Frames -/

/-- What PUT, WRITE and FLUSH leave alone. The bytes stored are those of `storedBytes`, at the fill position of the fill packet; a step
that faults changes `STATE`, `ERRCAUSE` and other ports as Error entry does. -/
def Obligations.TransmitCommandFrame : Prop :=
  ∀ (i : Instr) (s t : State), (∃ b, i = .put b) ∨ (∃ n, i = .write n) ∨ i = .flush → exec i s = .next t →
    EnvironmentSame s t ∧ CountersSame s t ∧ t.role = s.role ∧ t.mode = s.mode
    ∧ t.reuse = s.reuse ∧ t.rxdef = s.rxdef ∧ t.stopPolls = s.stopPolls
    ∧ t.evt.stop = s.evt.stop ∧ t.evt.irq = s.evt.irq ∧ t.evt.fetch = s.evt.fetch
    ∧ t.rxq = s.rxq ∧ t.drain = s.drain ∧ t.drainPos = s.drainPos
    ∧ (∀ a, Memory.read? t.data a = readAfterStore s (storedBytes i s) a)
    ∧ (∀ h, s.fill ≠ some h → t.lenAt h = s.lenAt h)
    ∧ (∀ h, s.fill ≠ some h → t.fill ≠ some h → t.ownerAt h = s.ownerAt h)
    ∧ ((t.state = s.state ∧ t.errCause = s.errCause ∧ OtherPortsSame s t s.cur) ∨ FaultedOn s t s.cur)

/-- What GET and READ leave alone: all of packet memory, the transmit side, and every slot but the drain packet and the packets of the
receive queue. Their one fault is DOUBLE_FREE, on the last byte of a drain packet whose slot is free, which no run reaches: it leaves the
drain slot as it was and `DRAINPOS` past that byte (42 R161, 00 R13). -/
def Obligations.ReceiveCommandFrame : Prop :=
  (∀ (i : Instr) (s t : State), i = .get ∨ (∃ m, i = .read m) → exec i s = .next t →
    EnvironmentSame s t ∧ CountersSame s t ∧ t.role = s.role ∧ t.mode = s.mode
    ∧ t.reuse = s.reuse ∧ t.rxdef = s.rxdef ∧ t.stopPolls = s.stopPolls
    ∧ t.evt.stop = s.evt.stop ∧ t.evt.irq = s.evt.irq ∧ t.evt.txp = s.evt.txp
    ∧ t.txq = s.txq ∧ t.fill = s.fill ∧ t.fillPos = s.fillPos ∧ t.len = s.len
    ∧ (∀ a, Memory.read? t.data a = Memory.read? s.data a)
    ∧ (∀ h, s.drain ≠ some h → h ∉ s.rxq → t.ownerAt h = s.ownerAt h)
    ∧ ((t.state = s.state ∧ t.errCause = s.errCause ∧ OtherPortsSame s t s.cur)
      ∨ (FaultedOn s t s.cur ∧ t.errCause = some .doubleFree
        ∧ ∃ h, t.drain = some h ∧ t.drainPos = t.lenAt h ∧ t.ownerAt h = .free)))
  ∧ ∀ (s : State) (h : Nat) (maxN : BitVec 24), s.ready = true → s.drain = some h → h < s.cfg.slots → s.ownerAt h = .free →
      s.drainPos < s.lenAt h → s.lenAt h ≤ 32 →
      (s.drainPos + 1 = s.lenAt h →
        exec .get s = .next (enterError .doubleFree (some s.cur) { s with drainPos := s.lenAt h }))
      ∧ (s.lenAt h - s.drainPos ≤ maxN.toNat →
        exec (.read maxN) s = .next (enterError .doubleFree (some s.cur) { s with drainPos := s.lenAt h }))

/-- AVAIL, STATS and STATUS change nothing but their own port, by one response (20 R69). -/
def Obligations.ObserveCommandFrame : Prop :=
  ∀ (i : Instr) (s t : State), i = .avail ∨ (∃ sel, i = .stats sel) ∨ (∃ sel, i = .status sel) → exec i s = .next t →
    EnvironmentSame s t ∧ CountersSame s t ∧ ControlSame s t ∧ FlagsSame s t ∧ PacketsSame s t
    ∧ ∃ r, t.ports = s.ports.set s.cur ((s.port s.cur).answered r)

/-- What START, STOP and RESET leave alone: the counters, `ROLE`, `LEN` and all of packet memory; `MODE` but for START; the pool, the
queues, the fill and the drain but for START and RESET; every other port but for STOP. -/
def Obligations.LifecycleCommandFrame : Prop :=
  ∀ (i : Instr) (s t : State), (∃ m, i = .start m) ∨ i = .stop ∨ i = .reset → s.cfg.wellFormed = true → exec i s = .next t →
    EnvironmentSame s t ∧ CountersSame s t ∧ t.role = s.role ∧ t.len = s.len
    ∧ (∀ a, Memory.read? t.data a = Memory.read? s.data a)
    ∧ (i = .stop ∨ i = .reset → t.mode = s.mode)
    ∧ ((∃ m, i = .start m) ∨ i = .stop → t.errCause = s.errCause)
    ∧ (i = .stop → PacketsSame s t ∧ t.reuse = s.reuse ∧ t.rxdef = s.rxdef
        ∧ t.evt.irq = s.evt.irq ∧ t.evt.txp = s.evt.txp ∧ t.evt.fetch = s.evt.fetch)
    ∧ ((∃ m, i = .start m) ∨ i = .reset → OtherPortsSame s t s.cur)
end

