-- ==== Sys2Proof/Laws/Encoding.lean ====
section
/-! SUPPORT. The fields of a command word and of a number. -/

namespace Sys2Proof

/-! ## The fields of a word as numbers -/

theorem op_toNat (w : Word) : (Word.op w).toNat = w.toNat / 2 ^ 28 := by
  have := w.isLt
  simp [Word.op, BitVec.extractLsb'_toNat, Nat.shiftRight_eq_div_pow]
  omega

theorem rsv_toNat (w : Word) : (Word.rsv w).toNat = w.toNat / 2 ^ 24 % 16 := by
  simp [Word.rsv, BitVec.extractLsb'_toNat, Nat.shiftRight_eq_div_pow]

theorem arg_toNat (w : Word) : (Word.arg w).toNat = w.toNat % 2 ^ 24 := by
  simp [Word.arg, BitVec.extractLsb'_toNat]

/-! ## The fields of an encoded word -/

theorem word_toNat (op : BitVec 4) (arg : BitVec 24) : (word op arg).toNat = op.toNat * 2 ^ 28 + arg.toNat := by
  have h := arg.isLt
  have hor := Nat.shiftLeft_add_eq_or_of_lt h (op.toNat * 16)
  change ((op ++ (0 : BitVec 4)) ++ arg : BitVec (4 + 4 + 24)).toNat = _
  rw [BitVec.toNat_append, BitVec.toNat_append]
  simp [Nat.shiftLeft_eq] at hor ⊢
  omega

@[simp] theorem op_word (op : BitVec 4) (arg : BitVec 24) : Word.op (word op arg) = op := by
  apply BitVec.eq_of_toNat_eq
  rw [op_toNat, word_toNat]
  omega

@[simp] theorem rsv_word (op : BitVec 4) (arg : BitVec 24) : Word.rsv (word op arg) = 0 := by
  apply BitVec.eq_of_toNat_eq
  rw [rsv_toNat, word_toNat]
  simp
  omega

@[simp] theorem arg_word (op : BitVec 4) (arg : BitVec 24) : Word.arg (word op arg) = arg := by
  apply BitVec.eq_of_toNat_eq
  rw [arg_toNat, word_toNat]
  omega

/-! ## An operand narrower than the operand field -/

theorem operand_low {k : Nat} (hk : k ≤ 24) (b : BitVec k) : (b.setWidth 24).extractLsb' 0 k = b := by
  apply BitVec.eq_of_toNat_eq
  have hb := b.isLt
  have hp : 2 ^ k ≤ 2 ^ 24 := Nat.pow_le_pow_right (by omega) hk
  simp only [BitVec.extractLsb'_toNat, BitVec.toNat_setWidth, Nat.shiftRight_zero]
  rw [Nat.mod_eq_of_lt (a := b.toNat) (by omega), Nat.mod_eq_of_lt hb]

theorem operand_high {k j : Nat} (hk : k + j = 24) (b : BitVec k) : (b.setWidth 24).extractLsb' k j = 0 := by
  apply BitVec.eq_of_toNat_eq
  have hb := b.isLt
  have hp : 2 ^ k ≤ 2 ^ 24 := Nat.pow_le_pow_right (by omega) (by omega)
  simp only [BitVec.extractLsb'_toNat, BitVec.toNat_setWidth]
  rw [Nat.mod_eq_of_lt (a := b.toNat) (by omega), Nat.shiftRight_eq_div_pow, Nat.div_eq_of_lt hb]
  simp

end Sys2Proof
end

