-- ==== Sys2Proof/Laws/State.lean ====
section
/-! SUPPORT. What each update of the state leaves in each field: one lemma per field per update. -/

namespace Sys2Proof.Machine

variable (s : State)

/-! ### withOwner -/

@[simp] theorem withOwner_cfg (h : Nat) (tag : Owner) : (s.withOwner h tag).cfg = s.cfg := rfl
@[simp] theorem withOwner_state (h : Nat) (tag : Owner) : (s.withOwner h tag).state = s.state := rfl
@[simp] theorem withOwner_role (h : Nat) (tag : Owner) : (s.withOwner h tag).role = s.role := rfl
@[simp] theorem withOwner_mode (h : Nat) (tag : Owner) : (s.withOwner h tag).mode = s.mode := rfl
@[simp] theorem withOwner_errCause (h : Nat) (tag : Owner) : (s.withOwner h tag).errCause = s.errCause := rfl
@[simp] theorem withOwner_evt (h : Nat) (tag : Owner) : (s.withOwner h tag).evt = s.evt := rfl
@[simp] theorem withOwner_reuse (h : Nat) (tag : Owner) : (s.withOwner h tag).reuse = s.reuse := rfl
@[simp] theorem withOwner_rxdef (h : Nat) (tag : Owner) : (s.withOwner h tag).rxdef = s.rxdef := rfl
@[simp] theorem withOwner_stopPolls (h : Nat) (tag : Owner) : (s.withOwner h tag).stopPolls = s.stopPolls := rfl
@[simp] theorem withOwner_owner (h : Nat) (tag : Owner) : (s.withOwner h tag).owner = s.owner.set h tag := rfl
@[simp] theorem withOwner_len (h : Nat) (tag : Owner) : (s.withOwner h tag).len = s.len := rfl
@[simp] theorem withOwner_data (h : Nat) (tag : Owner) : (s.withOwner h tag).data = s.data := rfl
@[simp] theorem withOwner_txq (h : Nat) (tag : Owner) : (s.withOwner h tag).txq = s.txq := rfl
@[simp] theorem withOwner_rxq (h : Nat) (tag : Owner) : (s.withOwner h tag).rxq = s.rxq := rfl
@[simp] theorem withOwner_fill (h : Nat) (tag : Owner) : (s.withOwner h tag).fill = s.fill := rfl
@[simp] theorem withOwner_fillPos (h : Nat) (tag : Owner) : (s.withOwner h tag).fillPos = s.fillPos := rfl
@[simp] theorem withOwner_drain (h : Nat) (tag : Owner) : (s.withOwner h tag).drain = s.drain := rfl
@[simp] theorem withOwner_drainPos (h : Nat) (tag : Owner) : (s.withOwner h tag).drainPos = s.drainPos := rfl
@[simp] theorem withOwner_cntIrq (h : Nat) (tag : Owner) : (s.withOwner h tag).cntIrq = s.cntIrq := rfl
@[simp] theorem withOwner_cntSent (h : Nat) (tag : Owner) : (s.withOwner h tag).cntSent = s.cntSent := rfl
@[simp] theorem withOwner_cntMaxRt (h : Nat) (tag : Owner) : (s.withOwner h tag).cntMaxRt = s.cntMaxRt := rfl
@[simp] theorem withOwner_cntRx (h : Nat) (tag : Owner) : (s.withOwner h tag).cntRx = s.cntRx := rfl
@[simp] theorem withOwner_ports (h : Nat) (tag : Owner) : (s.withOwner h tag).ports = s.ports := rfl
@[simp] theorem withOwner_rtrace (h : Nat) (tag : Owner) : (s.withOwner h tag).rtrace = s.rtrace := rfl
@[simp] theorem withOwner_cur (h : Nat) (tag : Owner) : (s.withOwner h tag).cur = s.cur := rfl
@[simp] theorem withOwner_schedule (h : Nat) (tag : Owner) : (s.withOwner h tag).schedule = s.schedule := rfl
@[simp] theorem withOwner_ticks (h : Nat) (tag : Owner) : (s.withOwner h tag).ticks = s.ticks := rfl
@[simp] theorem withOwner_answers (h : Nat) (tag : Owner) : (s.withOwner h tag).answers = s.answers := rfl
@[simp] theorem withOwner_draws (h : Nat) (tag : Owner) : (s.withOwner h tag).draws = s.draws := rfl
@[simp] theorem withOwner_epoch (h : Nat) (tag : Owner) : (s.withOwner h tag).epoch = s.epoch := rfl

/-! ### poolDestroy -/

@[simp] theorem poolDestroy_cfg : (s.poolDestroy).cfg = s.cfg := rfl
@[simp] theorem poolDestroy_state : (s.poolDestroy).state = s.state := rfl
@[simp] theorem poolDestroy_role : (s.poolDestroy).role = s.role := rfl
@[simp] theorem poolDestroy_mode : (s.poolDestroy).mode = s.mode := rfl
@[simp] theorem poolDestroy_errCause : (s.poolDestroy).errCause = s.errCause := rfl
@[simp] theorem poolDestroy_evt : (s.poolDestroy).evt = s.evt := rfl
@[simp] theorem poolDestroy_reuse : (s.poolDestroy).reuse = s.reuse := rfl
@[simp] theorem poolDestroy_rxdef : (s.poolDestroy).rxdef = s.rxdef := rfl
@[simp] theorem poolDestroy_stopPolls : (s.poolDestroy).stopPolls = s.stopPolls := rfl
@[simp] theorem poolDestroy_owner : (s.poolDestroy).owner = List.replicate s.cfg.slots .free := rfl
@[simp] theorem poolDestroy_len : (s.poolDestroy).len = s.len := rfl
@[simp] theorem poolDestroy_data : (s.poolDestroy).data = s.data := rfl
@[simp] theorem poolDestroy_txq : (s.poolDestroy).txq = [] := rfl
@[simp] theorem poolDestroy_rxq : (s.poolDestroy).rxq = [] := rfl
@[simp] theorem poolDestroy_fill : (s.poolDestroy).fill = none := rfl
@[simp] theorem poolDestroy_fillPos : (s.poolDestroy).fillPos = 0 := rfl
@[simp] theorem poolDestroy_drain : (s.poolDestroy).drain = none := rfl
@[simp] theorem poolDestroy_drainPos : (s.poolDestroy).drainPos = 0 := rfl
@[simp] theorem poolDestroy_cntIrq : (s.poolDestroy).cntIrq = s.cntIrq := rfl
@[simp] theorem poolDestroy_cntSent : (s.poolDestroy).cntSent = s.cntSent := rfl
@[simp] theorem poolDestroy_cntMaxRt : (s.poolDestroy).cntMaxRt = s.cntMaxRt := rfl
@[simp] theorem poolDestroy_cntRx : (s.poolDestroy).cntRx = s.cntRx := rfl
@[simp] theorem poolDestroy_ports : (s.poolDestroy).ports = s.ports := rfl
@[simp] theorem poolDestroy_rtrace : (s.poolDestroy).rtrace = s.rtrace := rfl
@[simp] theorem poolDestroy_cur : (s.poolDestroy).cur = s.cur := rfl
@[simp] theorem poolDestroy_schedule : (s.poolDestroy).schedule = s.schedule := rfl
@[simp] theorem poolDestroy_ticks : (s.poolDestroy).ticks = s.ticks := rfl
@[simp] theorem poolDestroy_answers : (s.poolDestroy).answers = s.answers := rfl
@[simp] theorem poolDestroy_draws : (s.poolDestroy).draws = s.draws := rfl
@[simp] theorem poolDestroy_epoch : (s.poolDestroy).epoch = s.epoch := rfl

/-! ### clearFlags -/

@[simp] theorem clearFlags_cfg : (s.clearFlags).cfg = s.cfg := rfl
@[simp] theorem clearFlags_state : (s.clearFlags).state = s.state := rfl
@[simp] theorem clearFlags_role : (s.clearFlags).role = s.role := rfl
@[simp] theorem clearFlags_mode : (s.clearFlags).mode = s.mode := rfl
@[simp] theorem clearFlags_errCause : (s.clearFlags).errCause = s.errCause := rfl
@[simp] theorem clearFlags_evt : (s.clearFlags).evt = {} := rfl
@[simp] theorem clearFlags_reuse : (s.clearFlags).reuse = false := rfl
@[simp] theorem clearFlags_rxdef : (s.clearFlags).rxdef = false := rfl
@[simp] theorem clearFlags_stopPolls : (s.clearFlags).stopPolls = 0 := rfl
@[simp] theorem clearFlags_owner : (s.clearFlags).owner = s.owner := rfl
@[simp] theorem clearFlags_len : (s.clearFlags).len = s.len := rfl
@[simp] theorem clearFlags_data : (s.clearFlags).data = s.data := rfl
@[simp] theorem clearFlags_txq : (s.clearFlags).txq = s.txq := rfl
@[simp] theorem clearFlags_rxq : (s.clearFlags).rxq = s.rxq := rfl
@[simp] theorem clearFlags_fill : (s.clearFlags).fill = s.fill := rfl
@[simp] theorem clearFlags_fillPos : (s.clearFlags).fillPos = s.fillPos := rfl
@[simp] theorem clearFlags_drain : (s.clearFlags).drain = s.drain := rfl
@[simp] theorem clearFlags_drainPos : (s.clearFlags).drainPos = s.drainPos := rfl
@[simp] theorem clearFlags_cntIrq : (s.clearFlags).cntIrq = s.cntIrq := rfl
@[simp] theorem clearFlags_cntSent : (s.clearFlags).cntSent = s.cntSent := rfl
@[simp] theorem clearFlags_cntMaxRt : (s.clearFlags).cntMaxRt = s.cntMaxRt := rfl
@[simp] theorem clearFlags_cntRx : (s.clearFlags).cntRx = s.cntRx := rfl
@[simp] theorem clearFlags_ports : (s.clearFlags).ports = s.ports := rfl
@[simp] theorem clearFlags_rtrace : (s.clearFlags).rtrace = s.rtrace := rfl
@[simp] theorem clearFlags_cur : (s.clearFlags).cur = s.cur := rfl
@[simp] theorem clearFlags_schedule : (s.clearFlags).schedule = s.schedule := rfl
@[simp] theorem clearFlags_ticks : (s.clearFlags).ticks = s.ticks := rfl
@[simp] theorem clearFlags_answers : (s.clearFlags).answers = s.answers := rfl
@[simp] theorem clearFlags_draws : (s.clearFlags).draws = s.draws := rfl
@[simp] theorem clearFlags_epoch : (s.clearFlags).epoch = s.epoch := rfl

/-! ### withPort -/

@[simp] theorem withPort_cfg (p : Nat) (pt : Port) : (s.withPort p pt).cfg = s.cfg := rfl
@[simp] theorem withPort_state (p : Nat) (pt : Port) : (s.withPort p pt).state = s.state := rfl
@[simp] theorem withPort_role (p : Nat) (pt : Port) : (s.withPort p pt).role = s.role := rfl
@[simp] theorem withPort_mode (p : Nat) (pt : Port) : (s.withPort p pt).mode = s.mode := rfl
@[simp] theorem withPort_errCause (p : Nat) (pt : Port) : (s.withPort p pt).errCause = s.errCause := rfl
@[simp] theorem withPort_evt (p : Nat) (pt : Port) : (s.withPort p pt).evt = s.evt := rfl
@[simp] theorem withPort_reuse (p : Nat) (pt : Port) : (s.withPort p pt).reuse = s.reuse := rfl
@[simp] theorem withPort_rxdef (p : Nat) (pt : Port) : (s.withPort p pt).rxdef = s.rxdef := rfl
@[simp] theorem withPort_stopPolls (p : Nat) (pt : Port) : (s.withPort p pt).stopPolls = s.stopPolls := rfl
@[simp] theorem withPort_owner (p : Nat) (pt : Port) : (s.withPort p pt).owner = s.owner := rfl
@[simp] theorem withPort_len (p : Nat) (pt : Port) : (s.withPort p pt).len = s.len := rfl
@[simp] theorem withPort_data (p : Nat) (pt : Port) : (s.withPort p pt).data = s.data := rfl
@[simp] theorem withPort_txq (p : Nat) (pt : Port) : (s.withPort p pt).txq = s.txq := rfl
@[simp] theorem withPort_rxq (p : Nat) (pt : Port) : (s.withPort p pt).rxq = s.rxq := rfl
@[simp] theorem withPort_fill (p : Nat) (pt : Port) : (s.withPort p pt).fill = s.fill := rfl
@[simp] theorem withPort_fillPos (p : Nat) (pt : Port) : (s.withPort p pt).fillPos = s.fillPos := rfl
@[simp] theorem withPort_drain (p : Nat) (pt : Port) : (s.withPort p pt).drain = s.drain := rfl
@[simp] theorem withPort_drainPos (p : Nat) (pt : Port) : (s.withPort p pt).drainPos = s.drainPos := rfl
@[simp] theorem withPort_cntIrq (p : Nat) (pt : Port) : (s.withPort p pt).cntIrq = s.cntIrq := rfl
@[simp] theorem withPort_cntSent (p : Nat) (pt : Port) : (s.withPort p pt).cntSent = s.cntSent := rfl
@[simp] theorem withPort_cntMaxRt (p : Nat) (pt : Port) : (s.withPort p pt).cntMaxRt = s.cntMaxRt := rfl
@[simp] theorem withPort_cntRx (p : Nat) (pt : Port) : (s.withPort p pt).cntRx = s.cntRx := rfl
@[simp] theorem withPort_ports (p : Nat) (pt : Port) : (s.withPort p pt).ports = s.ports.set p pt := rfl
@[simp] theorem withPort_rtrace (p : Nat) (pt : Port) : (s.withPort p pt).rtrace = s.rtrace := rfl
@[simp] theorem withPort_cur (p : Nat) (pt : Port) : (s.withPort p pt).cur = s.cur := rfl
@[simp] theorem withPort_schedule (p : Nat) (pt : Port) : (s.withPort p pt).schedule = s.schedule := rfl
@[simp] theorem withPort_ticks (p : Nat) (pt : Port) : (s.withPort p pt).ticks = s.ticks := rfl
@[simp] theorem withPort_answers (p : Nat) (pt : Port) : (s.withPort p pt).answers = s.answers := rfl
@[simp] theorem withPort_draws (p : Nat) (pt : Port) : (s.withPort p pt).draws = s.draws := rfl
@[simp] theorem withPort_epoch (p : Nat) (pt : Port) : (s.withPort p pt).epoch = s.epoch := rfl

/-! ### respond -/

@[simp] theorem respond_cfg (r : Rstat) (v : Word) (d : List Byte) : (s.respond r v d).cfg = s.cfg := rfl
@[simp] theorem respond_state (r : Rstat) (v : Word) (d : List Byte) : (s.respond r v d).state = s.state := rfl
@[simp] theorem respond_role (r : Rstat) (v : Word) (d : List Byte) : (s.respond r v d).role = s.role := rfl
@[simp] theorem respond_mode (r : Rstat) (v : Word) (d : List Byte) : (s.respond r v d).mode = s.mode := rfl
@[simp] theorem respond_errCause (r : Rstat) (v : Word) (d : List Byte) : (s.respond r v d).errCause = s.errCause := rfl
@[simp] theorem respond_evt (r : Rstat) (v : Word) (d : List Byte) : (s.respond r v d).evt = s.evt := rfl
@[simp] theorem respond_reuse (r : Rstat) (v : Word) (d : List Byte) : (s.respond r v d).reuse = s.reuse := rfl
@[simp] theorem respond_rxdef (r : Rstat) (v : Word) (d : List Byte) : (s.respond r v d).rxdef = s.rxdef := rfl
@[simp] theorem respond_stopPolls (r : Rstat) (v : Word) (d : List Byte) : (s.respond r v d).stopPolls = s.stopPolls := rfl
@[simp] theorem respond_owner (r : Rstat) (v : Word) (d : List Byte) : (s.respond r v d).owner = s.owner := rfl
@[simp] theorem respond_len (r : Rstat) (v : Word) (d : List Byte) : (s.respond r v d).len = s.len := rfl
@[simp] theorem respond_data (r : Rstat) (v : Word) (d : List Byte) : (s.respond r v d).data = s.data := rfl
@[simp] theorem respond_txq (r : Rstat) (v : Word) (d : List Byte) : (s.respond r v d).txq = s.txq := rfl
@[simp] theorem respond_rxq (r : Rstat) (v : Word) (d : List Byte) : (s.respond r v d).rxq = s.rxq := rfl
@[simp] theorem respond_fill (r : Rstat) (v : Word) (d : List Byte) : (s.respond r v d).fill = s.fill := rfl
@[simp] theorem respond_fillPos (r : Rstat) (v : Word) (d : List Byte) : (s.respond r v d).fillPos = s.fillPos := rfl
@[simp] theorem respond_drain (r : Rstat) (v : Word) (d : List Byte) : (s.respond r v d).drain = s.drain := rfl
@[simp] theorem respond_drainPos (r : Rstat) (v : Word) (d : List Byte) : (s.respond r v d).drainPos = s.drainPos := rfl
@[simp] theorem respond_cntIrq (r : Rstat) (v : Word) (d : List Byte) : (s.respond r v d).cntIrq = s.cntIrq := rfl
@[simp] theorem respond_cntSent (r : Rstat) (v : Word) (d : List Byte) : (s.respond r v d).cntSent = s.cntSent := rfl
@[simp] theorem respond_cntMaxRt (r : Rstat) (v : Word) (d : List Byte) : (s.respond r v d).cntMaxRt = s.cntMaxRt := rfl
@[simp] theorem respond_cntRx (r : Rstat) (v : Word) (d : List Byte) : (s.respond r v d).cntRx = s.cntRx := rfl
@[simp] theorem respond_ports (r : Rstat) (v : Word) (d : List Byte) : (s.respond r v d).ports = s.ports.set s.cur ((s.port s.cur).answered ⟨r, v, d⟩) := rfl
@[simp] theorem respond_rtrace (r : Rstat) (v : Word) (d : List Byte) : (s.respond r v d).rtrace = s.rtrace := rfl
@[simp] theorem respond_cur (r : Rstat) (v : Word) (d : List Byte) : (s.respond r v d).cur = s.cur := rfl
@[simp] theorem respond_schedule (r : Rstat) (v : Word) (d : List Byte) : (s.respond r v d).schedule = s.schedule := rfl
@[simp] theorem respond_ticks (r : Rstat) (v : Word) (d : List Byte) : (s.respond r v d).ticks = s.ticks := rfl
@[simp] theorem respond_answers (r : Rstat) (v : Word) (d : List Byte) : (s.respond r v d).answers = s.answers := rfl
@[simp] theorem respond_draws (r : Rstat) (v : Word) (d : List Byte) : (s.respond r v d).draws = s.draws := rfl
@[simp] theorem respond_epoch (r : Rstat) (v : Word) (d : List Byte) : (s.respond r v d).epoch = s.epoch := rfl

/-! ### withPhase -/

@[simp] theorem withPhase_cfg (ph : Phase) : (s.withPhase ph).cfg = s.cfg := rfl
@[simp] theorem withPhase_state (ph : Phase) : (s.withPhase ph).state = s.state := rfl
@[simp] theorem withPhase_role (ph : Phase) : (s.withPhase ph).role = s.role := rfl
@[simp] theorem withPhase_mode (ph : Phase) : (s.withPhase ph).mode = s.mode := rfl
@[simp] theorem withPhase_errCause (ph : Phase) : (s.withPhase ph).errCause = s.errCause := rfl
@[simp] theorem withPhase_evt (ph : Phase) : (s.withPhase ph).evt = s.evt := rfl
@[simp] theorem withPhase_reuse (ph : Phase) : (s.withPhase ph).reuse = s.reuse := rfl
@[simp] theorem withPhase_rxdef (ph : Phase) : (s.withPhase ph).rxdef = s.rxdef := rfl
@[simp] theorem withPhase_stopPolls (ph : Phase) : (s.withPhase ph).stopPolls = s.stopPolls := rfl
@[simp] theorem withPhase_owner (ph : Phase) : (s.withPhase ph).owner = s.owner := rfl
@[simp] theorem withPhase_len (ph : Phase) : (s.withPhase ph).len = s.len := rfl
@[simp] theorem withPhase_data (ph : Phase) : (s.withPhase ph).data = s.data := rfl
@[simp] theorem withPhase_txq (ph : Phase) : (s.withPhase ph).txq = s.txq := rfl
@[simp] theorem withPhase_rxq (ph : Phase) : (s.withPhase ph).rxq = s.rxq := rfl
@[simp] theorem withPhase_fill (ph : Phase) : (s.withPhase ph).fill = s.fill := rfl
@[simp] theorem withPhase_fillPos (ph : Phase) : (s.withPhase ph).fillPos = s.fillPos := rfl
@[simp] theorem withPhase_drain (ph : Phase) : (s.withPhase ph).drain = s.drain := rfl
@[simp] theorem withPhase_drainPos (ph : Phase) : (s.withPhase ph).drainPos = s.drainPos := rfl
@[simp] theorem withPhase_cntIrq (ph : Phase) : (s.withPhase ph).cntIrq = s.cntIrq := rfl
@[simp] theorem withPhase_cntSent (ph : Phase) : (s.withPhase ph).cntSent = s.cntSent := rfl
@[simp] theorem withPhase_cntMaxRt (ph : Phase) : (s.withPhase ph).cntMaxRt = s.cntMaxRt := rfl
@[simp] theorem withPhase_cntRx (ph : Phase) : (s.withPhase ph).cntRx = s.cntRx := rfl
@[simp] theorem withPhase_ports (ph : Phase) : (s.withPhase ph).ports = s.ports.set s.cur { s.port s.cur with phase := ph } := rfl
@[simp] theorem withPhase_rtrace (ph : Phase) : (s.withPhase ph).rtrace = s.rtrace := rfl
@[simp] theorem withPhase_cur (ph : Phase) : (s.withPhase ph).cur = s.cur := rfl
@[simp] theorem withPhase_schedule (ph : Phase) : (s.withPhase ph).schedule = s.schedule := rfl
@[simp] theorem withPhase_ticks (ph : Phase) : (s.withPhase ph).ticks = s.ticks := rfl
@[simp] theorem withPhase_answers (ph : Phase) : (s.withPhase ph).answers = s.answers := rfl
@[simp] theorem withPhase_draws (ph : Phase) : (s.withPhase ph).draws = s.draws := rfl
@[simp] theorem withPhase_epoch (ph : Phase) : (s.withPhase ph).epoch = s.epoch := rfl

/-! ### withDone -/

@[simp] theorem withDone_cfg (n : Nat) : (s.withDone n).cfg = s.cfg := rfl
@[simp] theorem withDone_state (n : Nat) : (s.withDone n).state = s.state := rfl
@[simp] theorem withDone_role (n : Nat) : (s.withDone n).role = s.role := rfl
@[simp] theorem withDone_mode (n : Nat) : (s.withDone n).mode = s.mode := rfl
@[simp] theorem withDone_errCause (n : Nat) : (s.withDone n).errCause = s.errCause := rfl
@[simp] theorem withDone_evt (n : Nat) : (s.withDone n).evt = s.evt := rfl
@[simp] theorem withDone_reuse (n : Nat) : (s.withDone n).reuse = s.reuse := rfl
@[simp] theorem withDone_rxdef (n : Nat) : (s.withDone n).rxdef = s.rxdef := rfl
@[simp] theorem withDone_stopPolls (n : Nat) : (s.withDone n).stopPolls = s.stopPolls := rfl
@[simp] theorem withDone_owner (n : Nat) : (s.withDone n).owner = s.owner := rfl
@[simp] theorem withDone_len (n : Nat) : (s.withDone n).len = s.len := rfl
@[simp] theorem withDone_data (n : Nat) : (s.withDone n).data = s.data := rfl
@[simp] theorem withDone_txq (n : Nat) : (s.withDone n).txq = s.txq := rfl
@[simp] theorem withDone_rxq (n : Nat) : (s.withDone n).rxq = s.rxq := rfl
@[simp] theorem withDone_fill (n : Nat) : (s.withDone n).fill = s.fill := rfl
@[simp] theorem withDone_fillPos (n : Nat) : (s.withDone n).fillPos = s.fillPos := rfl
@[simp] theorem withDone_drain (n : Nat) : (s.withDone n).drain = s.drain := rfl
@[simp] theorem withDone_drainPos (n : Nat) : (s.withDone n).drainPos = s.drainPos := rfl
@[simp] theorem withDone_cntIrq (n : Nat) : (s.withDone n).cntIrq = s.cntIrq := rfl
@[simp] theorem withDone_cntSent (n : Nat) : (s.withDone n).cntSent = s.cntSent := rfl
@[simp] theorem withDone_cntMaxRt (n : Nat) : (s.withDone n).cntMaxRt = s.cntMaxRt := rfl
@[simp] theorem withDone_cntRx (n : Nat) : (s.withDone n).cntRx = s.cntRx := rfl
@[simp] theorem withDone_ports (n : Nat) : (s.withDone n).ports = s.ports.set s.cur { s.port s.cur with done := n } := rfl
@[simp] theorem withDone_rtrace (n : Nat) : (s.withDone n).rtrace = s.rtrace := rfl
@[simp] theorem withDone_cur (n : Nat) : (s.withDone n).cur = s.cur := rfl
@[simp] theorem withDone_schedule (n : Nat) : (s.withDone n).schedule = s.schedule := rfl
@[simp] theorem withDone_ticks (n : Nat) : (s.withDone n).ticks = s.ticks := rfl
@[simp] theorem withDone_answers (n : Nat) : (s.withDone n).answers = s.answers := rfl
@[simp] theorem withDone_draws (n : Nat) : (s.withDone n).draws = s.draws := rfl
@[simp] theorem withDone_epoch (n : Nat) : (s.withDone n).epoch = s.epoch := rfl

/-! ### release -/

@[simp] theorem release_cfg (k : Option Nat) : (s.release k).cfg = s.cfg := rfl
@[simp] theorem release_state (k : Option Nat) : (s.release k).state = s.state := rfl
@[simp] theorem release_role (k : Option Nat) : (s.release k).role = s.role := rfl
@[simp] theorem release_mode (k : Option Nat) : (s.release k).mode = s.mode := rfl
@[simp] theorem release_errCause (k : Option Nat) : (s.release k).errCause = s.errCause := rfl
@[simp] theorem release_evt (k : Option Nat) : (s.release k).evt = s.evt := rfl
@[simp] theorem release_reuse (k : Option Nat) : (s.release k).reuse = s.reuse := rfl
@[simp] theorem release_rxdef (k : Option Nat) : (s.release k).rxdef = s.rxdef := rfl
@[simp] theorem release_stopPolls (k : Option Nat) : (s.release k).stopPolls = s.stopPolls := rfl
@[simp] theorem release_owner (k : Option Nat) : (s.release k).owner = s.owner := rfl
@[simp] theorem release_len (k : Option Nat) : (s.release k).len = s.len := rfl
@[simp] theorem release_data (k : Option Nat) : (s.release k).data = s.data := rfl
@[simp] theorem release_txq (k : Option Nat) : (s.release k).txq = s.txq := rfl
@[simp] theorem release_rxq (k : Option Nat) : (s.release k).rxq = s.rxq := rfl
@[simp] theorem release_fill (k : Option Nat) : (s.release k).fill = s.fill := rfl
@[simp] theorem release_fillPos (k : Option Nat) : (s.release k).fillPos = s.fillPos := rfl
@[simp] theorem release_drain (k : Option Nat) : (s.release k).drain = s.drain := rfl
@[simp] theorem release_drainPos (k : Option Nat) : (s.release k).drainPos = s.drainPos := rfl
@[simp] theorem release_cntIrq (k : Option Nat) : (s.release k).cntIrq = s.cntIrq := rfl
@[simp] theorem release_cntSent (k : Option Nat) : (s.release k).cntSent = s.cntSent := rfl
@[simp] theorem release_cntMaxRt (k : Option Nat) : (s.release k).cntMaxRt = s.cntMaxRt := rfl
@[simp] theorem release_cntRx (k : Option Nat) : (s.release k).cntRx = s.cntRx := rfl
@[simp] theorem release_ports (k : Option Nat) : (s.release k).ports = s.ports.mapIdx fun q pt => if k = some q then pt else pt.released := rfl
@[simp] theorem release_rtrace (k : Option Nat) : (s.release k).rtrace = s.rtrace := rfl
@[simp] theorem release_cur (k : Option Nat) : (s.release k).cur = s.cur := rfl
@[simp] theorem release_schedule (k : Option Nat) : (s.release k).schedule = s.schedule := rfl
@[simp] theorem release_ticks (k : Option Nat) : (s.release k).ticks = s.ticks := rfl
@[simp] theorem release_answers (k : Option Nat) : (s.release k).answers = s.answers := rfl
@[simp] theorem release_draws (k : Option Nat) : (s.release k).draws = s.draws := rfl
@[simp] theorem release_epoch (k : Option Nat) : (s.release k).epoch = s.epoch := rfl

/-! ### traced -/

@[simp] theorem traced_cfg (t : RadioTxn) : (s.traced t).cfg = s.cfg := rfl
@[simp] theorem traced_state (t : RadioTxn) : (s.traced t).state = s.state := rfl
@[simp] theorem traced_role (t : RadioTxn) : (s.traced t).role = s.role := rfl
@[simp] theorem traced_mode (t : RadioTxn) : (s.traced t).mode = s.mode := rfl
@[simp] theorem traced_errCause (t : RadioTxn) : (s.traced t).errCause = s.errCause := rfl
@[simp] theorem traced_evt (t : RadioTxn) : (s.traced t).evt = s.evt := rfl
@[simp] theorem traced_reuse (t : RadioTxn) : (s.traced t).reuse = s.reuse := rfl
@[simp] theorem traced_rxdef (t : RadioTxn) : (s.traced t).rxdef = s.rxdef := rfl
@[simp] theorem traced_stopPolls (t : RadioTxn) : (s.traced t).stopPolls = s.stopPolls := rfl
@[simp] theorem traced_owner (t : RadioTxn) : (s.traced t).owner = s.owner := rfl
@[simp] theorem traced_len (t : RadioTxn) : (s.traced t).len = s.len := rfl
@[simp] theorem traced_data (t : RadioTxn) : (s.traced t).data = s.data := rfl
@[simp] theorem traced_txq (t : RadioTxn) : (s.traced t).txq = s.txq := rfl
@[simp] theorem traced_rxq (t : RadioTxn) : (s.traced t).rxq = s.rxq := rfl
@[simp] theorem traced_fill (t : RadioTxn) : (s.traced t).fill = s.fill := rfl
@[simp] theorem traced_fillPos (t : RadioTxn) : (s.traced t).fillPos = s.fillPos := rfl
@[simp] theorem traced_drain (t : RadioTxn) : (s.traced t).drain = s.drain := rfl
@[simp] theorem traced_drainPos (t : RadioTxn) : (s.traced t).drainPos = s.drainPos := rfl
@[simp] theorem traced_cntIrq (t : RadioTxn) : (s.traced t).cntIrq = s.cntIrq := rfl
@[simp] theorem traced_cntSent (t : RadioTxn) : (s.traced t).cntSent = s.cntSent := rfl
@[simp] theorem traced_cntMaxRt (t : RadioTxn) : (s.traced t).cntMaxRt = s.cntMaxRt := rfl
@[simp] theorem traced_cntRx (t : RadioTxn) : (s.traced t).cntRx = s.cntRx := rfl
@[simp] theorem traced_ports (t : RadioTxn) : (s.traced t).ports = s.ports := rfl
@[simp] theorem traced_rtrace (t : RadioTxn) : (s.traced t).rtrace = s.rtrace ++ [t] := rfl
@[simp] theorem traced_cur (t : RadioTxn) : (s.traced t).cur = s.cur := rfl
@[simp] theorem traced_schedule (t : RadioTxn) : (s.traced t).schedule = s.schedule := rfl
@[simp] theorem traced_ticks (t : RadioTxn) : (s.traced t).ticks = s.ticks := rfl
@[simp] theorem traced_answers (t : RadioTxn) : (s.traced t).answers = s.answers := rfl
@[simp] theorem traced_draws (t : RadioTxn) : (s.traced t).draws = s.draws := rfl
@[simp] theorem traced_epoch (t : RadioTxn) : (s.traced t).epoch = s.epoch := rfl

/-! ### raiseStop -/

@[simp] theorem raiseStop_cfg : (s.raiseStop).cfg = s.cfg := rfl
@[simp] theorem raiseStop_state : (s.raiseStop).state = s.state := rfl
@[simp] theorem raiseStop_role : (s.raiseStop).role = s.role := rfl
@[simp] theorem raiseStop_mode : (s.raiseStop).mode = s.mode := rfl
@[simp] theorem raiseStop_errCause : (s.raiseStop).errCause = s.errCause := rfl
@[simp] theorem raiseStop_evt : (s.raiseStop).evt = { s.evt with stop := true } := rfl
@[simp] theorem raiseStop_reuse : (s.raiseStop).reuse = s.reuse := rfl
@[simp] theorem raiseStop_rxdef : (s.raiseStop).rxdef = s.rxdef := rfl
@[simp] theorem raiseStop_stopPolls : (s.raiseStop).stopPolls = s.stopPolls := rfl
@[simp] theorem raiseStop_owner : (s.raiseStop).owner = s.owner := rfl
@[simp] theorem raiseStop_len : (s.raiseStop).len = s.len := rfl
@[simp] theorem raiseStop_data : (s.raiseStop).data = s.data := rfl
@[simp] theorem raiseStop_txq : (s.raiseStop).txq = s.txq := rfl
@[simp] theorem raiseStop_rxq : (s.raiseStop).rxq = s.rxq := rfl
@[simp] theorem raiseStop_fill : (s.raiseStop).fill = s.fill := rfl
@[simp] theorem raiseStop_fillPos : (s.raiseStop).fillPos = s.fillPos := rfl
@[simp] theorem raiseStop_drain : (s.raiseStop).drain = s.drain := rfl
@[simp] theorem raiseStop_drainPos : (s.raiseStop).drainPos = s.drainPos := rfl
@[simp] theorem raiseStop_cntIrq : (s.raiseStop).cntIrq = s.cntIrq := rfl
@[simp] theorem raiseStop_cntSent : (s.raiseStop).cntSent = s.cntSent := rfl
@[simp] theorem raiseStop_cntMaxRt : (s.raiseStop).cntMaxRt = s.cntMaxRt := rfl
@[simp] theorem raiseStop_cntRx : (s.raiseStop).cntRx = s.cntRx := rfl
@[simp] theorem raiseStop_ports : (s.raiseStop).ports = s.ports := rfl
@[simp] theorem raiseStop_rtrace : (s.raiseStop).rtrace = s.rtrace := rfl
@[simp] theorem raiseStop_cur : (s.raiseStop).cur = s.cur := rfl
@[simp] theorem raiseStop_schedule : (s.raiseStop).schedule = s.schedule := rfl
@[simp] theorem raiseStop_ticks : (s.raiseStop).ticks = s.ticks := rfl
@[simp] theorem raiseStop_answers : (s.raiseStop).answers = s.answers := rfl
@[simp] theorem raiseStop_draws : (s.raiseStop).draws = s.draws := rfl
@[simp] theorem raiseStop_epoch : (s.raiseStop).epoch = s.epoch := rfl

/-! ### raiseIrq -/

@[simp] theorem raiseIrq_cfg : (s.raiseIrq).cfg = s.cfg := rfl
@[simp] theorem raiseIrq_state : (s.raiseIrq).state = s.state := rfl
@[simp] theorem raiseIrq_role : (s.raiseIrq).role = s.role := rfl
@[simp] theorem raiseIrq_mode : (s.raiseIrq).mode = s.mode := rfl
@[simp] theorem raiseIrq_errCause : (s.raiseIrq).errCause = s.errCause := rfl
@[simp] theorem raiseIrq_evt : (s.raiseIrq).evt = { s.evt with irq := true } := rfl
@[simp] theorem raiseIrq_reuse : (s.raiseIrq).reuse = s.reuse := rfl
@[simp] theorem raiseIrq_rxdef : (s.raiseIrq).rxdef = s.rxdef := rfl
@[simp] theorem raiseIrq_stopPolls : (s.raiseIrq).stopPolls = s.stopPolls := rfl
@[simp] theorem raiseIrq_owner : (s.raiseIrq).owner = s.owner := rfl
@[simp] theorem raiseIrq_len : (s.raiseIrq).len = s.len := rfl
@[simp] theorem raiseIrq_data : (s.raiseIrq).data = s.data := rfl
@[simp] theorem raiseIrq_txq : (s.raiseIrq).txq = s.txq := rfl
@[simp] theorem raiseIrq_rxq : (s.raiseIrq).rxq = s.rxq := rfl
@[simp] theorem raiseIrq_fill : (s.raiseIrq).fill = s.fill := rfl
@[simp] theorem raiseIrq_fillPos : (s.raiseIrq).fillPos = s.fillPos := rfl
@[simp] theorem raiseIrq_drain : (s.raiseIrq).drain = s.drain := rfl
@[simp] theorem raiseIrq_drainPos : (s.raiseIrq).drainPos = s.drainPos := rfl
@[simp] theorem raiseIrq_cntIrq : (s.raiseIrq).cntIrq = s.cntIrq := rfl
@[simp] theorem raiseIrq_cntSent : (s.raiseIrq).cntSent = s.cntSent := rfl
@[simp] theorem raiseIrq_cntMaxRt : (s.raiseIrq).cntMaxRt = s.cntMaxRt := rfl
@[simp] theorem raiseIrq_cntRx : (s.raiseIrq).cntRx = s.cntRx := rfl
@[simp] theorem raiseIrq_ports : (s.raiseIrq).ports = s.ports := rfl
@[simp] theorem raiseIrq_rtrace : (s.raiseIrq).rtrace = s.rtrace := rfl
@[simp] theorem raiseIrq_cur : (s.raiseIrq).cur = s.cur := rfl
@[simp] theorem raiseIrq_schedule : (s.raiseIrq).schedule = s.schedule := rfl
@[simp] theorem raiseIrq_ticks : (s.raiseIrq).ticks = s.ticks := rfl
@[simp] theorem raiseIrq_answers : (s.raiseIrq).answers = s.answers := rfl
@[simp] theorem raiseIrq_draws : (s.raiseIrq).draws = s.draws := rfl
@[simp] theorem raiseIrq_epoch : (s.raiseIrq).epoch = s.epoch := rfl

/-! ### raiseTxp -/

@[simp] theorem raiseTxp_cfg : (s.raiseTxp).cfg = s.cfg := rfl
@[simp] theorem raiseTxp_state : (s.raiseTxp).state = s.state := rfl
@[simp] theorem raiseTxp_role : (s.raiseTxp).role = s.role := rfl
@[simp] theorem raiseTxp_mode : (s.raiseTxp).mode = s.mode := rfl
@[simp] theorem raiseTxp_errCause : (s.raiseTxp).errCause = s.errCause := rfl
@[simp] theorem raiseTxp_evt : (s.raiseTxp).evt = { s.evt with txp := true } := rfl
@[simp] theorem raiseTxp_reuse : (s.raiseTxp).reuse = s.reuse := rfl
@[simp] theorem raiseTxp_rxdef : (s.raiseTxp).rxdef = s.rxdef := rfl
@[simp] theorem raiseTxp_stopPolls : (s.raiseTxp).stopPolls = s.stopPolls := rfl
@[simp] theorem raiseTxp_owner : (s.raiseTxp).owner = s.owner := rfl
@[simp] theorem raiseTxp_len : (s.raiseTxp).len = s.len := rfl
@[simp] theorem raiseTxp_data : (s.raiseTxp).data = s.data := rfl
@[simp] theorem raiseTxp_txq : (s.raiseTxp).txq = s.txq := rfl
@[simp] theorem raiseTxp_rxq : (s.raiseTxp).rxq = s.rxq := rfl
@[simp] theorem raiseTxp_fill : (s.raiseTxp).fill = s.fill := rfl
@[simp] theorem raiseTxp_fillPos : (s.raiseTxp).fillPos = s.fillPos := rfl
@[simp] theorem raiseTxp_drain : (s.raiseTxp).drain = s.drain := rfl
@[simp] theorem raiseTxp_drainPos : (s.raiseTxp).drainPos = s.drainPos := rfl
@[simp] theorem raiseTxp_cntIrq : (s.raiseTxp).cntIrq = s.cntIrq := rfl
@[simp] theorem raiseTxp_cntSent : (s.raiseTxp).cntSent = s.cntSent := rfl
@[simp] theorem raiseTxp_cntMaxRt : (s.raiseTxp).cntMaxRt = s.cntMaxRt := rfl
@[simp] theorem raiseTxp_cntRx : (s.raiseTxp).cntRx = s.cntRx := rfl
@[simp] theorem raiseTxp_ports : (s.raiseTxp).ports = s.ports := rfl
@[simp] theorem raiseTxp_rtrace : (s.raiseTxp).rtrace = s.rtrace := rfl
@[simp] theorem raiseTxp_cur : (s.raiseTxp).cur = s.cur := rfl
@[simp] theorem raiseTxp_schedule : (s.raiseTxp).schedule = s.schedule := rfl
@[simp] theorem raiseTxp_ticks : (s.raiseTxp).ticks = s.ticks := rfl
@[simp] theorem raiseTxp_answers : (s.raiseTxp).answers = s.answers := rfl
@[simp] theorem raiseTxp_draws : (s.raiseTxp).draws = s.draws := rfl
@[simp] theorem raiseTxp_epoch : (s.raiseTxp).epoch = s.epoch := rfl

/-! ### raiseFetch -/

@[simp] theorem raiseFetch_cfg : (s.raiseFetch).cfg = s.cfg := rfl
@[simp] theorem raiseFetch_state : (s.raiseFetch).state = s.state := rfl
@[simp] theorem raiseFetch_role : (s.raiseFetch).role = s.role := rfl
@[simp] theorem raiseFetch_mode : (s.raiseFetch).mode = s.mode := rfl
@[simp] theorem raiseFetch_errCause : (s.raiseFetch).errCause = s.errCause := rfl
@[simp] theorem raiseFetch_evt : (s.raiseFetch).evt = { s.evt with fetch := true } := rfl
@[simp] theorem raiseFetch_reuse : (s.raiseFetch).reuse = s.reuse := rfl
@[simp] theorem raiseFetch_rxdef : (s.raiseFetch).rxdef = s.rxdef := rfl
@[simp] theorem raiseFetch_stopPolls : (s.raiseFetch).stopPolls = s.stopPolls := rfl
@[simp] theorem raiseFetch_owner : (s.raiseFetch).owner = s.owner := rfl
@[simp] theorem raiseFetch_len : (s.raiseFetch).len = s.len := rfl
@[simp] theorem raiseFetch_data : (s.raiseFetch).data = s.data := rfl
@[simp] theorem raiseFetch_txq : (s.raiseFetch).txq = s.txq := rfl
@[simp] theorem raiseFetch_rxq : (s.raiseFetch).rxq = s.rxq := rfl
@[simp] theorem raiseFetch_fill : (s.raiseFetch).fill = s.fill := rfl
@[simp] theorem raiseFetch_fillPos : (s.raiseFetch).fillPos = s.fillPos := rfl
@[simp] theorem raiseFetch_drain : (s.raiseFetch).drain = s.drain := rfl
@[simp] theorem raiseFetch_drainPos : (s.raiseFetch).drainPos = s.drainPos := rfl
@[simp] theorem raiseFetch_cntIrq : (s.raiseFetch).cntIrq = s.cntIrq := rfl
@[simp] theorem raiseFetch_cntSent : (s.raiseFetch).cntSent = s.cntSent := rfl
@[simp] theorem raiseFetch_cntMaxRt : (s.raiseFetch).cntMaxRt = s.cntMaxRt := rfl
@[simp] theorem raiseFetch_cntRx : (s.raiseFetch).cntRx = s.cntRx := rfl
@[simp] theorem raiseFetch_ports : (s.raiseFetch).ports = s.ports := rfl
@[simp] theorem raiseFetch_rtrace : (s.raiseFetch).rtrace = s.rtrace := rfl
@[simp] theorem raiseFetch_cur : (s.raiseFetch).cur = s.cur := rfl
@[simp] theorem raiseFetch_schedule : (s.raiseFetch).schedule = s.schedule := rfl
@[simp] theorem raiseFetch_ticks : (s.raiseFetch).ticks = s.ticks := rfl
@[simp] theorem raiseFetch_answers : (s.raiseFetch).answers = s.answers := rfl
@[simp] theorem raiseFetch_draws : (s.raiseFetch).draws = s.draws := rfl
@[simp] theorem raiseFetch_epoch : (s.raiseFetch).epoch = s.epoch := rfl

/-! ### consumeEvents -/

@[simp] theorem consumeEvents_cfg : (s.consumeEvents).cfg = s.cfg := rfl
@[simp] theorem consumeEvents_state : (s.consumeEvents).state = s.state := rfl
@[simp] theorem consumeEvents_role : (s.consumeEvents).role = s.role := rfl
@[simp] theorem consumeEvents_mode : (s.consumeEvents).mode = s.mode := rfl
@[simp] theorem consumeEvents_errCause : (s.consumeEvents).errCause = s.errCause := rfl
@[simp] theorem consumeEvents_evt : (s.consumeEvents).evt = { s.evt with irq := false, txp := false, fetch := false } := rfl
@[simp] theorem consumeEvents_reuse : (s.consumeEvents).reuse = s.reuse := rfl
@[simp] theorem consumeEvents_rxdef : (s.consumeEvents).rxdef = s.rxdef := rfl
@[simp] theorem consumeEvents_stopPolls : (s.consumeEvents).stopPolls = s.stopPolls := rfl
@[simp] theorem consumeEvents_owner : (s.consumeEvents).owner = s.owner := rfl
@[simp] theorem consumeEvents_len : (s.consumeEvents).len = s.len := rfl
@[simp] theorem consumeEvents_data : (s.consumeEvents).data = s.data := rfl
@[simp] theorem consumeEvents_txq : (s.consumeEvents).txq = s.txq := rfl
@[simp] theorem consumeEvents_rxq : (s.consumeEvents).rxq = s.rxq := rfl
@[simp] theorem consumeEvents_fill : (s.consumeEvents).fill = s.fill := rfl
@[simp] theorem consumeEvents_fillPos : (s.consumeEvents).fillPos = s.fillPos := rfl
@[simp] theorem consumeEvents_drain : (s.consumeEvents).drain = s.drain := rfl
@[simp] theorem consumeEvents_drainPos : (s.consumeEvents).drainPos = s.drainPos := rfl
@[simp] theorem consumeEvents_cntIrq : (s.consumeEvents).cntIrq = s.cntIrq := rfl
@[simp] theorem consumeEvents_cntSent : (s.consumeEvents).cntSent = s.cntSent := rfl
@[simp] theorem consumeEvents_cntMaxRt : (s.consumeEvents).cntMaxRt = s.cntMaxRt := rfl
@[simp] theorem consumeEvents_cntRx : (s.consumeEvents).cntRx = s.cntRx := rfl
@[simp] theorem consumeEvents_ports : (s.consumeEvents).ports = s.ports := rfl
@[simp] theorem consumeEvents_rtrace : (s.consumeEvents).rtrace = s.rtrace := rfl
@[simp] theorem consumeEvents_cur : (s.consumeEvents).cur = s.cur := rfl
@[simp] theorem consumeEvents_schedule : (s.consumeEvents).schedule = s.schedule := rfl
@[simp] theorem consumeEvents_ticks : (s.consumeEvents).ticks = s.ticks := rfl
@[simp] theorem consumeEvents_answers : (s.consumeEvents).answers = s.answers := rfl
@[simp] theorem consumeEvents_draws : (s.consumeEvents).draws = s.draws := rfl
@[simp] theorem consumeEvents_epoch : (s.consumeEvents).epoch = s.epoch := rfl

/-! ### withReuse -/

@[simp] theorem withReuse_cfg (b : Bool) : (s.withReuse b).cfg = s.cfg := rfl
@[simp] theorem withReuse_state (b : Bool) : (s.withReuse b).state = s.state := rfl
@[simp] theorem withReuse_role (b : Bool) : (s.withReuse b).role = s.role := rfl
@[simp] theorem withReuse_mode (b : Bool) : (s.withReuse b).mode = s.mode := rfl
@[simp] theorem withReuse_errCause (b : Bool) : (s.withReuse b).errCause = s.errCause := rfl
@[simp] theorem withReuse_evt (b : Bool) : (s.withReuse b).evt = s.evt := rfl
@[simp] theorem withReuse_reuse (b : Bool) : (s.withReuse b).reuse = b := rfl
@[simp] theorem withReuse_rxdef (b : Bool) : (s.withReuse b).rxdef = s.rxdef := rfl
@[simp] theorem withReuse_stopPolls (b : Bool) : (s.withReuse b).stopPolls = s.stopPolls := rfl
@[simp] theorem withReuse_owner (b : Bool) : (s.withReuse b).owner = s.owner := rfl
@[simp] theorem withReuse_len (b : Bool) : (s.withReuse b).len = s.len := rfl
@[simp] theorem withReuse_data (b : Bool) : (s.withReuse b).data = s.data := rfl
@[simp] theorem withReuse_txq (b : Bool) : (s.withReuse b).txq = s.txq := rfl
@[simp] theorem withReuse_rxq (b : Bool) : (s.withReuse b).rxq = s.rxq := rfl
@[simp] theorem withReuse_fill (b : Bool) : (s.withReuse b).fill = s.fill := rfl
@[simp] theorem withReuse_fillPos (b : Bool) : (s.withReuse b).fillPos = s.fillPos := rfl
@[simp] theorem withReuse_drain (b : Bool) : (s.withReuse b).drain = s.drain := rfl
@[simp] theorem withReuse_drainPos (b : Bool) : (s.withReuse b).drainPos = s.drainPos := rfl
@[simp] theorem withReuse_cntIrq (b : Bool) : (s.withReuse b).cntIrq = s.cntIrq := rfl
@[simp] theorem withReuse_cntSent (b : Bool) : (s.withReuse b).cntSent = s.cntSent := rfl
@[simp] theorem withReuse_cntMaxRt (b : Bool) : (s.withReuse b).cntMaxRt = s.cntMaxRt := rfl
@[simp] theorem withReuse_cntRx (b : Bool) : (s.withReuse b).cntRx = s.cntRx := rfl
@[simp] theorem withReuse_ports (b : Bool) : (s.withReuse b).ports = s.ports := rfl
@[simp] theorem withReuse_rtrace (b : Bool) : (s.withReuse b).rtrace = s.rtrace := rfl
@[simp] theorem withReuse_cur (b : Bool) : (s.withReuse b).cur = s.cur := rfl
@[simp] theorem withReuse_schedule (b : Bool) : (s.withReuse b).schedule = s.schedule := rfl
@[simp] theorem withReuse_ticks (b : Bool) : (s.withReuse b).ticks = s.ticks := rfl
@[simp] theorem withReuse_answers (b : Bool) : (s.withReuse b).answers = s.answers := rfl
@[simp] theorem withReuse_draws (b : Bool) : (s.withReuse b).draws = s.draws := rfl
@[simp] theorem withReuse_epoch (b : Bool) : (s.withReuse b).epoch = s.epoch := rfl

/-! ### withRxdef -/

@[simp] theorem withRxdef_cfg (b : Bool) : (s.withRxdef b).cfg = s.cfg := rfl
@[simp] theorem withRxdef_state (b : Bool) : (s.withRxdef b).state = s.state := rfl
@[simp] theorem withRxdef_role (b : Bool) : (s.withRxdef b).role = s.role := rfl
@[simp] theorem withRxdef_mode (b : Bool) : (s.withRxdef b).mode = s.mode := rfl
@[simp] theorem withRxdef_errCause (b : Bool) : (s.withRxdef b).errCause = s.errCause := rfl
@[simp] theorem withRxdef_evt (b : Bool) : (s.withRxdef b).evt = s.evt := rfl
@[simp] theorem withRxdef_reuse (b : Bool) : (s.withRxdef b).reuse = s.reuse := rfl
@[simp] theorem withRxdef_rxdef (b : Bool) : (s.withRxdef b).rxdef = b := rfl
@[simp] theorem withRxdef_stopPolls (b : Bool) : (s.withRxdef b).stopPolls = s.stopPolls := rfl
@[simp] theorem withRxdef_owner (b : Bool) : (s.withRxdef b).owner = s.owner := rfl
@[simp] theorem withRxdef_len (b : Bool) : (s.withRxdef b).len = s.len := rfl
@[simp] theorem withRxdef_data (b : Bool) : (s.withRxdef b).data = s.data := rfl
@[simp] theorem withRxdef_txq (b : Bool) : (s.withRxdef b).txq = s.txq := rfl
@[simp] theorem withRxdef_rxq (b : Bool) : (s.withRxdef b).rxq = s.rxq := rfl
@[simp] theorem withRxdef_fill (b : Bool) : (s.withRxdef b).fill = s.fill := rfl
@[simp] theorem withRxdef_fillPos (b : Bool) : (s.withRxdef b).fillPos = s.fillPos := rfl
@[simp] theorem withRxdef_drain (b : Bool) : (s.withRxdef b).drain = s.drain := rfl
@[simp] theorem withRxdef_drainPos (b : Bool) : (s.withRxdef b).drainPos = s.drainPos := rfl
@[simp] theorem withRxdef_cntIrq (b : Bool) : (s.withRxdef b).cntIrq = s.cntIrq := rfl
@[simp] theorem withRxdef_cntSent (b : Bool) : (s.withRxdef b).cntSent = s.cntSent := rfl
@[simp] theorem withRxdef_cntMaxRt (b : Bool) : (s.withRxdef b).cntMaxRt = s.cntMaxRt := rfl
@[simp] theorem withRxdef_cntRx (b : Bool) : (s.withRxdef b).cntRx = s.cntRx := rfl
@[simp] theorem withRxdef_ports (b : Bool) : (s.withRxdef b).ports = s.ports := rfl
@[simp] theorem withRxdef_rtrace (b : Bool) : (s.withRxdef b).rtrace = s.rtrace := rfl
@[simp] theorem withRxdef_cur (b : Bool) : (s.withRxdef b).cur = s.cur := rfl
@[simp] theorem withRxdef_schedule (b : Bool) : (s.withRxdef b).schedule = s.schedule := rfl
@[simp] theorem withRxdef_ticks (b : Bool) : (s.withRxdef b).ticks = s.ticks := rfl
@[simp] theorem withRxdef_answers (b : Bool) : (s.withRxdef b).answers = s.answers := rfl
@[simp] theorem withRxdef_draws (b : Bool) : (s.withRxdef b).draws = s.draws := rfl
@[simp] theorem withRxdef_epoch (b : Bool) : (s.withRxdef b).epoch = s.epoch := rfl

/-! ### countIrq -/

@[simp] theorem countIrq_cfg : (s.countIrq).cfg = s.cfg := rfl
@[simp] theorem countIrq_state : (s.countIrq).state = s.state := rfl
@[simp] theorem countIrq_role : (s.countIrq).role = s.role := rfl
@[simp] theorem countIrq_mode : (s.countIrq).mode = s.mode := rfl
@[simp] theorem countIrq_errCause : (s.countIrq).errCause = s.errCause := rfl
@[simp] theorem countIrq_evt : (s.countIrq).evt = s.evt := rfl
@[simp] theorem countIrq_reuse : (s.countIrq).reuse = s.reuse := rfl
@[simp] theorem countIrq_rxdef : (s.countIrq).rxdef = s.rxdef := rfl
@[simp] theorem countIrq_stopPolls : (s.countIrq).stopPolls = s.stopPolls := rfl
@[simp] theorem countIrq_owner : (s.countIrq).owner = s.owner := rfl
@[simp] theorem countIrq_len : (s.countIrq).len = s.len := rfl
@[simp] theorem countIrq_data : (s.countIrq).data = s.data := rfl
@[simp] theorem countIrq_txq : (s.countIrq).txq = s.txq := rfl
@[simp] theorem countIrq_rxq : (s.countIrq).rxq = s.rxq := rfl
@[simp] theorem countIrq_fill : (s.countIrq).fill = s.fill := rfl
@[simp] theorem countIrq_fillPos : (s.countIrq).fillPos = s.fillPos := rfl
@[simp] theorem countIrq_drain : (s.countIrq).drain = s.drain := rfl
@[simp] theorem countIrq_drainPos : (s.countIrq).drainPos = s.drainPos := rfl
@[simp] theorem countIrq_cntIrq : (s.countIrq).cntIrq = s.cntIrq + 1 := rfl
@[simp] theorem countIrq_cntSent : (s.countIrq).cntSent = s.cntSent := rfl
@[simp] theorem countIrq_cntMaxRt : (s.countIrq).cntMaxRt = s.cntMaxRt := rfl
@[simp] theorem countIrq_cntRx : (s.countIrq).cntRx = s.cntRx := rfl
@[simp] theorem countIrq_ports : (s.countIrq).ports = s.ports := rfl
@[simp] theorem countIrq_rtrace : (s.countIrq).rtrace = s.rtrace := rfl
@[simp] theorem countIrq_cur : (s.countIrq).cur = s.cur := rfl
@[simp] theorem countIrq_schedule : (s.countIrq).schedule = s.schedule := rfl
@[simp] theorem countIrq_ticks : (s.countIrq).ticks = s.ticks := rfl
@[simp] theorem countIrq_answers : (s.countIrq).answers = s.answers := rfl
@[simp] theorem countIrq_draws : (s.countIrq).draws = s.draws := rfl
@[simp] theorem countIrq_epoch : (s.countIrq).epoch = s.epoch := rfl

/-! ### countSent -/

@[simp] theorem countSent_cfg : (s.countSent).cfg = s.cfg := rfl
@[simp] theorem countSent_state : (s.countSent).state = s.state := rfl
@[simp] theorem countSent_role : (s.countSent).role = s.role := rfl
@[simp] theorem countSent_mode : (s.countSent).mode = s.mode := rfl
@[simp] theorem countSent_errCause : (s.countSent).errCause = s.errCause := rfl
@[simp] theorem countSent_evt : (s.countSent).evt = s.evt := rfl
@[simp] theorem countSent_reuse : (s.countSent).reuse = s.reuse := rfl
@[simp] theorem countSent_rxdef : (s.countSent).rxdef = s.rxdef := rfl
@[simp] theorem countSent_stopPolls : (s.countSent).stopPolls = s.stopPolls := rfl
@[simp] theorem countSent_owner : (s.countSent).owner = s.owner := rfl
@[simp] theorem countSent_len : (s.countSent).len = s.len := rfl
@[simp] theorem countSent_data : (s.countSent).data = s.data := rfl
@[simp] theorem countSent_txq : (s.countSent).txq = s.txq := rfl
@[simp] theorem countSent_rxq : (s.countSent).rxq = s.rxq := rfl
@[simp] theorem countSent_fill : (s.countSent).fill = s.fill := rfl
@[simp] theorem countSent_fillPos : (s.countSent).fillPos = s.fillPos := rfl
@[simp] theorem countSent_drain : (s.countSent).drain = s.drain := rfl
@[simp] theorem countSent_drainPos : (s.countSent).drainPos = s.drainPos := rfl
@[simp] theorem countSent_cntIrq : (s.countSent).cntIrq = s.cntIrq := rfl
@[simp] theorem countSent_cntSent : (s.countSent).cntSent = s.cntSent + 1 := rfl
@[simp] theorem countSent_cntMaxRt : (s.countSent).cntMaxRt = s.cntMaxRt := rfl
@[simp] theorem countSent_cntRx : (s.countSent).cntRx = s.cntRx := rfl
@[simp] theorem countSent_ports : (s.countSent).ports = s.ports := rfl
@[simp] theorem countSent_rtrace : (s.countSent).rtrace = s.rtrace := rfl
@[simp] theorem countSent_cur : (s.countSent).cur = s.cur := rfl
@[simp] theorem countSent_schedule : (s.countSent).schedule = s.schedule := rfl
@[simp] theorem countSent_ticks : (s.countSent).ticks = s.ticks := rfl
@[simp] theorem countSent_answers : (s.countSent).answers = s.answers := rfl
@[simp] theorem countSent_draws : (s.countSent).draws = s.draws := rfl
@[simp] theorem countSent_epoch : (s.countSent).epoch = s.epoch := rfl

/-! ### countMaxRt -/

@[simp] theorem countMaxRt_cfg : (s.countMaxRt).cfg = s.cfg := rfl
@[simp] theorem countMaxRt_state : (s.countMaxRt).state = s.state := rfl
@[simp] theorem countMaxRt_role : (s.countMaxRt).role = s.role := rfl
@[simp] theorem countMaxRt_mode : (s.countMaxRt).mode = s.mode := rfl
@[simp] theorem countMaxRt_errCause : (s.countMaxRt).errCause = s.errCause := rfl
@[simp] theorem countMaxRt_evt : (s.countMaxRt).evt = s.evt := rfl
@[simp] theorem countMaxRt_reuse : (s.countMaxRt).reuse = s.reuse := rfl
@[simp] theorem countMaxRt_rxdef : (s.countMaxRt).rxdef = s.rxdef := rfl
@[simp] theorem countMaxRt_stopPolls : (s.countMaxRt).stopPolls = s.stopPolls := rfl
@[simp] theorem countMaxRt_owner : (s.countMaxRt).owner = s.owner := rfl
@[simp] theorem countMaxRt_len : (s.countMaxRt).len = s.len := rfl
@[simp] theorem countMaxRt_data : (s.countMaxRt).data = s.data := rfl
@[simp] theorem countMaxRt_txq : (s.countMaxRt).txq = s.txq := rfl
@[simp] theorem countMaxRt_rxq : (s.countMaxRt).rxq = s.rxq := rfl
@[simp] theorem countMaxRt_fill : (s.countMaxRt).fill = s.fill := rfl
@[simp] theorem countMaxRt_fillPos : (s.countMaxRt).fillPos = s.fillPos := rfl
@[simp] theorem countMaxRt_drain : (s.countMaxRt).drain = s.drain := rfl
@[simp] theorem countMaxRt_drainPos : (s.countMaxRt).drainPos = s.drainPos := rfl
@[simp] theorem countMaxRt_cntIrq : (s.countMaxRt).cntIrq = s.cntIrq := rfl
@[simp] theorem countMaxRt_cntSent : (s.countMaxRt).cntSent = s.cntSent := rfl
@[simp] theorem countMaxRt_cntMaxRt : (s.countMaxRt).cntMaxRt = s.cntMaxRt + 1 := rfl
@[simp] theorem countMaxRt_cntRx : (s.countMaxRt).cntRx = s.cntRx := rfl
@[simp] theorem countMaxRt_ports : (s.countMaxRt).ports = s.ports := rfl
@[simp] theorem countMaxRt_rtrace : (s.countMaxRt).rtrace = s.rtrace := rfl
@[simp] theorem countMaxRt_cur : (s.countMaxRt).cur = s.cur := rfl
@[simp] theorem countMaxRt_schedule : (s.countMaxRt).schedule = s.schedule := rfl
@[simp] theorem countMaxRt_ticks : (s.countMaxRt).ticks = s.ticks := rfl
@[simp] theorem countMaxRt_answers : (s.countMaxRt).answers = s.answers := rfl
@[simp] theorem countMaxRt_draws : (s.countMaxRt).draws = s.draws := rfl
@[simp] theorem countMaxRt_epoch : (s.countMaxRt).epoch = s.epoch := rfl

/-! ### countRx -/

@[simp] theorem countRx_cfg : (s.countRx).cfg = s.cfg := rfl
@[simp] theorem countRx_state : (s.countRx).state = s.state := rfl
@[simp] theorem countRx_role : (s.countRx).role = s.role := rfl
@[simp] theorem countRx_mode : (s.countRx).mode = s.mode := rfl
@[simp] theorem countRx_errCause : (s.countRx).errCause = s.errCause := rfl
@[simp] theorem countRx_evt : (s.countRx).evt = s.evt := rfl
@[simp] theorem countRx_reuse : (s.countRx).reuse = s.reuse := rfl
@[simp] theorem countRx_rxdef : (s.countRx).rxdef = s.rxdef := rfl
@[simp] theorem countRx_stopPolls : (s.countRx).stopPolls = s.stopPolls := rfl
@[simp] theorem countRx_owner : (s.countRx).owner = s.owner := rfl
@[simp] theorem countRx_len : (s.countRx).len = s.len := rfl
@[simp] theorem countRx_data : (s.countRx).data = s.data := rfl
@[simp] theorem countRx_txq : (s.countRx).txq = s.txq := rfl
@[simp] theorem countRx_rxq : (s.countRx).rxq = s.rxq := rfl
@[simp] theorem countRx_fill : (s.countRx).fill = s.fill := rfl
@[simp] theorem countRx_fillPos : (s.countRx).fillPos = s.fillPos := rfl
@[simp] theorem countRx_drain : (s.countRx).drain = s.drain := rfl
@[simp] theorem countRx_drainPos : (s.countRx).drainPos = s.drainPos := rfl
@[simp] theorem countRx_cntIrq : (s.countRx).cntIrq = s.cntIrq := rfl
@[simp] theorem countRx_cntSent : (s.countRx).cntSent = s.cntSent := rfl
@[simp] theorem countRx_cntMaxRt : (s.countRx).cntMaxRt = s.cntMaxRt := rfl
@[simp] theorem countRx_cntRx : (s.countRx).cntRx = s.cntRx + 1 := rfl
@[simp] theorem countRx_ports : (s.countRx).ports = s.ports := rfl
@[simp] theorem countRx_rtrace : (s.countRx).rtrace = s.rtrace := rfl
@[simp] theorem countRx_cur : (s.countRx).cur = s.cur := rfl
@[simp] theorem countRx_schedule : (s.countRx).schedule = s.schedule := rfl
@[simp] theorem countRx_ticks : (s.countRx).ticks = s.ticks := rfl
@[simp] theorem countRx_answers : (s.countRx).answers = s.answers := rfl
@[simp] theorem countRx_draws : (s.countRx).draws = s.draws := rfl
@[simp] theorem countRx_epoch : (s.countRx).epoch = s.epoch := rfl

/-! ### radioBeginListening -/

@[simp] theorem radioBeginListening_cfg : (radioBeginListening s).cfg = s.cfg := rfl
@[simp] theorem radioBeginListening_state : (radioBeginListening s).state = s.state := rfl
@[simp] theorem radioBeginListening_role : (radioBeginListening s).role = .prx := rfl
@[simp] theorem radioBeginListening_mode : (radioBeginListening s).mode = s.mode := rfl
@[simp] theorem radioBeginListening_errCause : (radioBeginListening s).errCause = s.errCause := rfl
@[simp] theorem radioBeginListening_evt : (radioBeginListening s).evt = s.evt := rfl
@[simp] theorem radioBeginListening_reuse : (radioBeginListening s).reuse = s.reuse := rfl
@[simp] theorem radioBeginListening_rxdef : (radioBeginListening s).rxdef = s.rxdef := rfl
@[simp] theorem radioBeginListening_stopPolls : (radioBeginListening s).stopPolls = s.stopPolls := rfl
@[simp] theorem radioBeginListening_owner : (radioBeginListening s).owner = s.owner := rfl
@[simp] theorem radioBeginListening_len : (radioBeginListening s).len = s.len := rfl
@[simp] theorem radioBeginListening_data : (radioBeginListening s).data = s.data := rfl
@[simp] theorem radioBeginListening_txq : (radioBeginListening s).txq = s.txq := rfl
@[simp] theorem radioBeginListening_rxq : (radioBeginListening s).rxq = s.rxq := rfl
@[simp] theorem radioBeginListening_fill : (radioBeginListening s).fill = s.fill := rfl
@[simp] theorem radioBeginListening_fillPos : (radioBeginListening s).fillPos = s.fillPos := rfl
@[simp] theorem radioBeginListening_drain : (radioBeginListening s).drain = s.drain := rfl
@[simp] theorem radioBeginListening_drainPos : (radioBeginListening s).drainPos = s.drainPos := rfl
@[simp] theorem radioBeginListening_cntIrq : (radioBeginListening s).cntIrq = s.cntIrq := rfl
@[simp] theorem radioBeginListening_cntSent : (radioBeginListening s).cntSent = s.cntSent := rfl
@[simp] theorem radioBeginListening_cntMaxRt : (radioBeginListening s).cntMaxRt = s.cntMaxRt := rfl
@[simp] theorem radioBeginListening_cntRx : (radioBeginListening s).cntRx = s.cntRx := rfl
@[simp] theorem radioBeginListening_ports : (radioBeginListening s).ports = s.ports := rfl
@[simp] theorem radioBeginListening_rtrace : (radioBeginListening s).rtrace = s.rtrace ++ [.beginListening] := rfl
@[simp] theorem radioBeginListening_cur : (radioBeginListening s).cur = s.cur := rfl
@[simp] theorem radioBeginListening_schedule : (radioBeginListening s).schedule = s.schedule := rfl
@[simp] theorem radioBeginListening_ticks : (radioBeginListening s).ticks = s.ticks := rfl
@[simp] theorem radioBeginListening_answers : (radioBeginListening s).answers = s.answers := rfl
@[simp] theorem radioBeginListening_draws : (radioBeginListening s).draws = s.draws := rfl
@[simp] theorem radioBeginListening_epoch : (radioBeginListening s).epoch = s.epoch := rfl

/-! ### radioBecomeTx -/

@[simp] theorem radioBecomeTx_cfg : (radioBecomeTx s).cfg = s.cfg := rfl
@[simp] theorem radioBecomeTx_state : (radioBecomeTx s).state = s.state := rfl
@[simp] theorem radioBecomeTx_role : (radioBecomeTx s).role = .ptx := rfl
@[simp] theorem radioBecomeTx_mode : (radioBecomeTx s).mode = s.mode := rfl
@[simp] theorem radioBecomeTx_errCause : (radioBecomeTx s).errCause = s.errCause := rfl
@[simp] theorem radioBecomeTx_evt : (radioBecomeTx s).evt = s.evt := rfl
@[simp] theorem radioBecomeTx_reuse : (radioBecomeTx s).reuse = s.reuse := rfl
@[simp] theorem radioBecomeTx_rxdef : (radioBecomeTx s).rxdef = s.rxdef := rfl
@[simp] theorem radioBecomeTx_stopPolls : (radioBecomeTx s).stopPolls = s.stopPolls := rfl
@[simp] theorem radioBecomeTx_owner : (radioBecomeTx s).owner = s.owner := rfl
@[simp] theorem radioBecomeTx_len : (radioBecomeTx s).len = s.len := rfl
@[simp] theorem radioBecomeTx_data : (radioBecomeTx s).data = s.data := rfl
@[simp] theorem radioBecomeTx_txq : (radioBecomeTx s).txq = s.txq := rfl
@[simp] theorem radioBecomeTx_rxq : (radioBecomeTx s).rxq = s.rxq := rfl
@[simp] theorem radioBecomeTx_fill : (radioBecomeTx s).fill = s.fill := rfl
@[simp] theorem radioBecomeTx_fillPos : (radioBecomeTx s).fillPos = s.fillPos := rfl
@[simp] theorem radioBecomeTx_drain : (radioBecomeTx s).drain = s.drain := rfl
@[simp] theorem radioBecomeTx_drainPos : (radioBecomeTx s).drainPos = s.drainPos := rfl
@[simp] theorem radioBecomeTx_cntIrq : (radioBecomeTx s).cntIrq = s.cntIrq := rfl
@[simp] theorem radioBecomeTx_cntSent : (radioBecomeTx s).cntSent = s.cntSent := rfl
@[simp] theorem radioBecomeTx_cntMaxRt : (radioBecomeTx s).cntMaxRt = s.cntMaxRt := rfl
@[simp] theorem radioBecomeTx_cntRx : (radioBecomeTx s).cntRx = s.cntRx := rfl
@[simp] theorem radioBecomeTx_ports : (radioBecomeTx s).ports = s.ports := rfl
@[simp] theorem radioBecomeTx_rtrace : (radioBecomeTx s).rtrace = s.rtrace ++ [.becomeTx] := rfl
@[simp] theorem radioBecomeTx_cur : (radioBecomeTx s).cur = s.cur := rfl
@[simp] theorem radioBecomeTx_schedule : (radioBecomeTx s).schedule = s.schedule := rfl
@[simp] theorem radioBecomeTx_ticks : (radioBecomeTx s).ticks = s.ticks := rfl
@[simp] theorem radioBecomeTx_answers : (radioBecomeTx s).answers = s.answers := rfl
@[simp] theorem radioBecomeTx_draws : (radioBecomeTx s).draws = s.draws := rfl
@[simp] theorem radioBecomeTx_epoch : (radioBecomeTx s).epoch = s.epoch := rfl

/-! ### drawn: only the two fields of the radio script change -/

@[simp] theorem drawn_cfg : s.drawn.cfg = s.cfg := by unfold State.drawn; split <;> rfl
@[simp] theorem drawn_state : s.drawn.state = s.state := by unfold State.drawn; split <;> rfl
@[simp] theorem drawn_role : s.drawn.role = s.role := by unfold State.drawn; split <;> rfl
@[simp] theorem drawn_mode : s.drawn.mode = s.mode := by unfold State.drawn; split <;> rfl
@[simp] theorem drawn_errCause : s.drawn.errCause = s.errCause := by unfold State.drawn; split <;> rfl
@[simp] theorem drawn_evt : s.drawn.evt = s.evt := by unfold State.drawn; split <;> rfl
@[simp] theorem drawn_reuse : s.drawn.reuse = s.reuse := by unfold State.drawn; split <;> rfl
@[simp] theorem drawn_rxdef : s.drawn.rxdef = s.rxdef := by unfold State.drawn; split <;> rfl
@[simp] theorem drawn_stopPolls : s.drawn.stopPolls = s.stopPolls := by unfold State.drawn; split <;> rfl
@[simp] theorem drawn_owner : s.drawn.owner = s.owner := by unfold State.drawn; split <;> rfl
@[simp] theorem drawn_len : s.drawn.len = s.len := by unfold State.drawn; split <;> rfl
@[simp] theorem drawn_data : s.drawn.data = s.data := by unfold State.drawn; split <;> rfl
@[simp] theorem drawn_txq : s.drawn.txq = s.txq := by unfold State.drawn; split <;> rfl
@[simp] theorem drawn_rxq : s.drawn.rxq = s.rxq := by unfold State.drawn; split <;> rfl
@[simp] theorem drawn_fill : s.drawn.fill = s.fill := by unfold State.drawn; split <;> rfl
@[simp] theorem drawn_fillPos : s.drawn.fillPos = s.fillPos := by unfold State.drawn; split <;> rfl
@[simp] theorem drawn_drain : s.drawn.drain = s.drain := by unfold State.drawn; split <;> rfl
@[simp] theorem drawn_drainPos : s.drawn.drainPos = s.drainPos := by unfold State.drawn; split <;> rfl
@[simp] theorem drawn_cntIrq : s.drawn.cntIrq = s.cntIrq := by unfold State.drawn; split <;> rfl
@[simp] theorem drawn_cntSent : s.drawn.cntSent = s.cntSent := by unfold State.drawn; split <;> rfl
@[simp] theorem drawn_cntMaxRt : s.drawn.cntMaxRt = s.cntMaxRt := by unfold State.drawn; split <;> rfl
@[simp] theorem drawn_cntRx : s.drawn.cntRx = s.cntRx := by unfold State.drawn; split <;> rfl
@[simp] theorem drawn_ports : s.drawn.ports = s.ports := by unfold State.drawn; split <;> rfl
@[simp] theorem drawn_rtrace : s.drawn.rtrace = s.rtrace := by unfold State.drawn; split <;> rfl
@[simp] theorem drawn_cur : s.drawn.cur = s.cur := by unfold State.drawn; split <;> rfl
@[simp] theorem drawn_schedule : s.drawn.schedule = s.schedule := by unfold State.drawn; split <;> rfl
@[simp] theorem drawn_ticks : s.drawn.ticks = s.ticks := by unfold State.drawn; split <;> rfl
@[simp] theorem drawn_epoch : s.drawn.epoch = s.epoch := by unfold State.drawn; split <;> rfl

@[simp] theorem drawn_answers : s.drawn.answers = s.answers.tail := by
  unfold State.drawn; split <;> simp [*]

/-! ### chosen: only the two fields of the arbiter's script change -/

@[simp] theorem chosen_cfg : s.chosen.cfg = s.cfg := by unfold State.chosen; split <;> rfl
@[simp] theorem chosen_state : s.chosen.state = s.state := by unfold State.chosen; split <;> rfl
@[simp] theorem chosen_role : s.chosen.role = s.role := by unfold State.chosen; split <;> rfl
@[simp] theorem chosen_mode : s.chosen.mode = s.mode := by unfold State.chosen; split <;> rfl
@[simp] theorem chosen_errCause : s.chosen.errCause = s.errCause := by unfold State.chosen; split <;> rfl
@[simp] theorem chosen_evt : s.chosen.evt = s.evt := by unfold State.chosen; split <;> rfl
@[simp] theorem chosen_reuse : s.chosen.reuse = s.reuse := by unfold State.chosen; split <;> rfl
@[simp] theorem chosen_rxdef : s.chosen.rxdef = s.rxdef := by unfold State.chosen; split <;> rfl
@[simp] theorem chosen_stopPolls : s.chosen.stopPolls = s.stopPolls := by unfold State.chosen; split <;> rfl
@[simp] theorem chosen_owner : s.chosen.owner = s.owner := by unfold State.chosen; split <;> rfl
@[simp] theorem chosen_len : s.chosen.len = s.len := by unfold State.chosen; split <;> rfl
@[simp] theorem chosen_data : s.chosen.data = s.data := by unfold State.chosen; split <;> rfl
@[simp] theorem chosen_txq : s.chosen.txq = s.txq := by unfold State.chosen; split <;> rfl
@[simp] theorem chosen_rxq : s.chosen.rxq = s.rxq := by unfold State.chosen; split <;> rfl
@[simp] theorem chosen_fill : s.chosen.fill = s.fill := by unfold State.chosen; split <;> rfl
@[simp] theorem chosen_fillPos : s.chosen.fillPos = s.fillPos := by unfold State.chosen; split <;> rfl
@[simp] theorem chosen_drain : s.chosen.drain = s.drain := by unfold State.chosen; split <;> rfl
@[simp] theorem chosen_drainPos : s.chosen.drainPos = s.drainPos := by unfold State.chosen; split <;> rfl
@[simp] theorem chosen_cntIrq : s.chosen.cntIrq = s.cntIrq := by unfold State.chosen; split <;> rfl
@[simp] theorem chosen_cntSent : s.chosen.cntSent = s.cntSent := by unfold State.chosen; split <;> rfl
@[simp] theorem chosen_cntMaxRt : s.chosen.cntMaxRt = s.cntMaxRt := by unfold State.chosen; split <;> rfl
@[simp] theorem chosen_cntRx : s.chosen.cntRx = s.cntRx := by unfold State.chosen; split <;> rfl
@[simp] theorem chosen_ports : s.chosen.ports = s.ports := by unfold State.chosen; split <;> rfl
@[simp] theorem chosen_rtrace : s.chosen.rtrace = s.rtrace := by unfold State.chosen; split <;> rfl
@[simp] theorem chosen_cur : s.chosen.cur = s.cur := by unfold State.chosen; split <;> rfl
@[simp] theorem chosen_answers : s.chosen.answers = s.answers := by unfold State.chosen; split <;> rfl
@[simp] theorem chosen_draws : s.chosen.draws = s.draws := by unfold State.chosen; split <;> rfl
@[simp] theorem chosen_epoch : s.chosen.epoch = s.epoch := by unfold State.chosen; split <;> rfl

@[simp] theorem chosen_schedule : s.chosen.schedule = s.schedule.tail := by
  unfold State.chosen; split <;> simp [*]

end Sys2Proof.Machine
end

