-- ==== Sys2Proof/Laws/Memory.lean ====
section
/-! SUPPORT. Packet memory: read after write, the canonical form, and what a multi-byte move does. -/

namespace Sys2Proof.Machine

/-! ## One cell -/

theorem Memory.read_write_same (m : List Host.Cell) (a : Nat) (b : Byte) :
    Memory.read? (Memory.write m a b) a = some b := by
  induction m with
  | nil => simp [Memory.write, Memory.read?]
  | cons cell rest ih =>
    obtain ⟨k, c⟩ := cell
    by_cases hlt : a < k
    · simp [Memory.write, Memory.read?, hlt]
    · by_cases heq : a = k
      · simp [Memory.write, Memory.read?, heq]
      · simp [Memory.write, Memory.read?, hlt, heq, Ne.symm heq, ih]

theorem Memory.read_write_other (m : List Host.Cell) {a a' : Nat} (b : Byte) (h : a' ≠ a) :
    Memory.read? (Memory.write m a b) a' = Memory.read? m a' := by
  induction m with
  | nil => simp [Memory.write, Memory.read?, Ne.symm h]
  | cons cell rest ih =>
    obtain ⟨k, c⟩ := cell
    by_cases hlt : a < k
    · simp [Memory.write, Memory.read?, hlt, Ne.symm h]
    · by_cases heq : a = k
      · subst heq; simp [Memory.write, Memory.read?, Ne.symm h]
      · simp [Memory.write, Memory.read?, hlt, heq, ih]

theorem Memory.mem_write {m : List Host.Cell} {a : Nat} {b : Byte} {x : Host.Cell}
    (h : x ∈ Memory.write m a b) : x = (a, b) ∨ x ∈ m := by
  induction m with
  | nil => simpa [Memory.write] using h
  | cons cell rest ih =>
    obtain ⟨k, c⟩ := cell
    unfold Memory.write at h
    split at h
    · simpa using h
    · split at h
      · rcases List.mem_cons.1 h with h | h
        · exact .inl h
        · exact .inr (List.mem_cons_of_mem _ h)
      · rcases List.mem_cons.1 h with h | h
        · exact .inr (h ▸ List.mem_cons_self)
        · exact (ih h).imp id (List.mem_cons_of_mem _)

/-- A write keeps the canonical form. -/
theorem Memory.write_wf {m : List Host.Cell} (hm : Memory.wf m) (a : Nat) (b : Byte) : Memory.wf (Memory.write m a b) := by
  induction m with
  | nil => simp [Memory.write, Memory.wf]
  | cons cell rest ih =>
    obtain ⟨k, c⟩ := cell
    obtain ⟨hk, hrest⟩ := List.pairwise_cons.1 hm
    unfold Memory.write
    split
    · rename_i hlt
      refine List.pairwise_cons.2 ⟨fun x hx => ?_, hm⟩
      rcases List.mem_cons.1 hx with rfl | hx
      · exact hlt
      · exact Nat.lt_trans hlt (hk x hx)
    · rename_i hge
      split
      · rename_i heq
        subst heq
        exact List.pairwise_cons.2 ⟨hk, hrest⟩
      · rename_i hne
        refine List.pairwise_cons.2 ⟨fun x hx => ?_, ih hrest⟩
        rcases Memory.mem_write hx with rfl | hx
        · simp only; omega
        · exact hk x hx

/-! ## MemRead and MemWrite -/

theorem memRead_ok {s : State} {h i : Nat} (hh : h < s.cfg.slots) (hi : i < 32) : memRead h i s = .ok (s.byteAt h i) s := by
  simp [memRead, hh, hi]

theorem memWrite_ok {s : State} {h i : Nat} (b : Byte) (hh : h < s.cfg.slots) (hi : i < 32) :
    memWrite h i b s = .ok () { s with data := Memory.write s.data (slotAddr h i) b } := by
  simp [memWrite, hh, hi]

/-- MemRead changes nothing. -/
theorem memRead_cases {s t : State} {h i : Nat} {b : Byte} (hr : memRead h i s = .ok b t) :
    h < s.cfg.slots ∧ i < 32 ∧ b = s.byteAt h i ∧ t = s := by
  unfold memRead at hr
  split at hr
  · cases hr
  · split at hr
    · cases hr
    · cases hr
      simp_all

/-- MemWrite changes the byte it names and nothing else. -/
theorem memWrite_cases {s t : State} {h i : Nat} {b : Byte} {u : Unit} (hr : memWrite h i b s = .ok u t) :
    h < s.cfg.slots ∧ i < 32 ∧ t = { s with data := Memory.write s.data (slotAddr h i) b } := by
  unfold memWrite at hr
  split at hr
  · cases hr
  · split at hr
    · cases hr
    · cases hr
      simp_all

theorem memRead_not_fatal {s t : State} {h i : Nat} {c : Cause} : memRead h i s ≠ .fatal c t := by
  unfold memRead; split
  · simp
  · split <;> simp

theorem memWrite_not_fatal {s t : State} {h i : Nat} {b : Byte} {c : Cause} : memWrite h i b s ≠ .fatal c t := by
  unfold memWrite; split
  · simp
  · split <;> simp

/-! ## Multi-byte moves -/

/-- The cells after the bytes `bs` are written from index `i` of slot `h`. -/
def Memory.writeAll (m : List Host.Cell) (h : Nat) : (i : Nat) → List Byte → List Host.Cell
  | _, [] => m
  | i, b :: bs => Memory.writeAll (Memory.write m (slotAddr h i) b) h (i + 1) bs

theorem Memory.writeAll_wf {m : List Host.Cell} (hm : Memory.wf m) (h i : Nat) (bs : List Byte) :
    Memory.wf (Memory.writeAll m h i bs) := by
  induction bs generalizing m i with
  | nil => exact hm
  | cons b bs ih => exact ih (Memory.write_wf hm _ _) (i + 1)

/-- What an address reads after the bytes are written: the byte written there, and what it read before anywhere else. -/
theorem Memory.read_writeAll (m : List Host.Cell) (h i a : Nat) (bs : List Byte) :
    Memory.read? (Memory.writeAll m h i bs) a =
      if slotAddr h i ≤ a ∧ a < slotAddr h i + bs.length then bs[a - slotAddr h i]? else Memory.read? m a := by
  induction bs generalizing m i with
  | nil =>
    simp [Memory.writeAll]
  | cons b bs ih =>
    have hs : slotAddr h (i + 1) = slotAddr h i + 1 := by unfold slotAddr; omega
    rw [Memory.writeAll, ih, hs]
    by_cases heq : a = slotAddr h i
    · subst heq
      rw [if_neg (by omega), if_pos (by simp), Memory.read_write_same]
      simp
    · rw [Memory.read_write_other _ _ heq]
      by_cases hin : slotAddr h i + 1 ≤ a ∧ a < slotAddr h i + 1 + bs.length
      · rw [if_pos hin, if_pos ⟨by omega, by simp only [List.length_cons]; omega⟩]
        have : a - slotAddr h i = (a - (slotAddr h i + 1)) + 1 := by omega
        rw [this, List.getElem?_cons_succ]
      · rw [if_neg hin, if_neg]
        simp only [List.length_cons]
        omega

theorem writeBytes_ok {s : State} {h i : Nat} {bs : List Byte} (hh : h < s.cfg.slots) (hi : i + bs.length ≤ 32) :
    writeBytes h i bs s = .ok () { s with data := Memory.writeAll s.data h i bs } := by
  induction bs generalizing s i with
  | nil => rfl
  | cons b bs ih =>
    simp only [List.length_cons] at hi
    rw [writeBytes, memWrite_ok b hh (by omega)]
    exact ih (s := { s with data := Memory.write s.data (slotAddr h i) b }) hh (by omega)

/-- A multi-byte write that ends normally changes packet memory only, by the bytes it names. -/
theorem writeBytes_cases {s t : State} {h i : Nat} {bs : List Byte} {u : Unit} (hr : writeBytes h i bs s = .ok u t) :
    t = { s with data := Memory.writeAll s.data h i bs } := by
  induction bs generalizing s i with
  | nil => cases hr; rfl
  | cons b bs ih =>
    rw [writeBytes] at hr
    cases hw : memWrite h i b s with
    | ok u' s' =>
      rw [hw] at hr
      obtain ⟨-, -, rfl⟩ := memWrite_cases hw
      exact ih hr
    | fatal c s' => rw [hw] at hr; cases hr
    | stop f => rw [hw] at hr; cases hr

theorem writeBytes_not_fatal {s t : State} {h i : Nat} {bs : List Byte} {c : Cause} : writeBytes h i bs s ≠ .fatal c t := by
  induction bs generalizing s i with
  | nil => simp [writeBytes]
  | cons b bs ih =>
    intro hr
    rw [writeBytes] at hr
    cases hw : memWrite h i b s with
    | ok u' s' => rw [hw] at hr; exact ih hr
    | fatal c s' => exact memWrite_not_fatal hw
    | stop f => rw [hw] at hr; cases hr

theorem readBytes_ok {s : State} {h i n : Nat} (hh : h < s.cfg.slots) (hi : i + n ≤ 32) :
    readBytes h i n s = .ok ((List.range n).map fun j => s.byteAt h (i + j)) s := by
  induction n generalizing i with
  | zero => rfl
  | succ n ih =>
    rw [readBytes, memRead_ok hh (by omega)]
    simp only [Res.bind]
    rw [ih (by omega), List.range_succ_eq_map]
    simp [Function.comp_def, Nat.add_assoc, Nat.add_comm 1]

/-- A multi-byte read changes nothing. -/
theorem readBytes_cases {s t : State} {h i n : Nat} {out : List Byte} (hr : readBytes h i n s = .ok out t) :
    t = s ∧ out = (List.range n).map fun j => s.byteAt h (i + j) := by
  induction n generalizing i out with
  | zero => cases hr; simp
  | succ n ih =>
    rw [readBytes] at hr
    cases hm : memRead h i s with
    | ok b s' =>
      rw [hm] at hr
      obtain ⟨-, -, rfl, rfl⟩ := memRead_cases hm
      simp only [Res.bind] at hr
      cases hb : readBytes h (i + 1) n s' with
      | ok bs s'' =>
        rw [hb] at hr
        cases hr
        obtain ⟨rfl, rfl⟩ := ih hb
        rw [List.range_succ_eq_map]
        simp [Function.comp_def, Nat.add_assoc, Nat.add_comm 1]
      | fatal c s'' => rw [hb] at hr; cases hr
      | stop f => rw [hb] at hr; cases hr
    | fatal c s' => rw [hm] at hr; cases hr
    | stop f => rw [hm] at hr; cases hr

/-- A read of at least one byte ends normally only at a slot of the pool. -/
theorem readBytes_slot {s t : State} {h i n : Nat} {out : List Byte} (hn : 1 ≤ n) (hr : readBytes h i n s = .ok out t) :
    h < s.cfg.slots := by
  cases n with
  | zero => cases hn
  | succ n =>
    rw [readBytes] at hr
    cases hm : memRead h i s with
    | ok b s' => exact (memRead_cases hm).1
    | fatal c s' => rw [hm] at hr; cases hr
    | stop f => rw [hm] at hr; cases hr

theorem readBytes_not_fatal {s t : State} {h i n : Nat} {c : Cause} : readBytes h i n s ≠ .fatal c t := by
  induction n generalizing i with
  | zero => simp [readBytes]
  | succ n ih =>
    intro hr
    rw [readBytes] at hr
    cases hm : memRead h i s with
    | ok b s' =>
      obtain ⟨-, -, -, rfl⟩ := memRead_cases hm
      rw [hm] at hr
      simp only [Res.bind] at hr
      cases hb : readBytes h (i + 1) n s' with
      | ok bs s'' => rw [hb] at hr; cases hr
      | fatal c s'' => rw [hb] at hr; cases hr; exact ih hb
      | stop f => rw [hb] at hr; cases hr
    | fatal c s' => exact memRead_not_fatal hm
    | stop f => rw [hm] at hr; cases hr

/-- Packet memory after power-on has the canonical form. -/
theorem reset_memory_wf : Memory.wf State.reset.data := by decide

end Sys2Proof.Machine
end

