-- ==== Sys2Proof/Laws/Ops.lean ====
section
/-! SUPPORT. What each shared operation can do: results, the pool, the queues, the ports, release and Error entry. -/

namespace Sys2Proof.Machine

/-! ## Results -/

@[simp] theorem bind_ok {α β : Type} (a : α) (s : State) (k : α → State → Res β) : (Res.ok a s).bind k = k a s := rfl

@[simp] theorem bind_fatal {α β : Type} (c : Cause) (s : State) (k : α → State → Res β) :
    (Res.fatal c s : Res α).bind k = .fatal c s := rfl

@[simp] theorem bind_stop {α β : Type} (f : Fault) (k : α → State → Res β) : (Res.stop f : Res α).bind k = .stop f := rfl

theorem bind_eq_ok {α β : Type} {r : Res α} {k : α → State → Res β} {b : β} {t : State} (h : r.bind k = .ok b t) :
    ∃ a s, r = .ok a s ∧ k a s = .ok b t := by
  cases r with
  | ok a s => exact ⟨a, s, rfl, h⟩
  | fatal c s => cases h
  | stop f => cases h

theorem bind_eq_fatal {α β : Type} {r : Res α} {k : α → State → Res β} {c : Cause} {t : State} (h : r.bind k = .fatal c t) :
    r = .fatal c t ∨ ∃ a s, r = .ok a s ∧ k a s = .fatal c t := by
  cases r with
  | ok a s => exact .inr ⟨a, s, rfl, h⟩
  | fatal c s => cases h; exact .inl rfl
  | stop f => cases h

theorem bind_eq_stop {α β : Type} {r : Res α} {k : α → State → Res β} {f : Fault} (h : r.bind k = .stop f) :
    r = .stop f ∨ ∃ a s, r = .ok a s ∧ k a s = .stop f := by
  cases r with
  | ok a s => exact .inr ⟨a, s, rfl, h⟩
  | fatal c s => cases h
  | stop f => cases h; exact .inl rfl

/-- A PORT step's action ends in a next state normally or by Error entry, and in nothing else. -/
theorem endPort_cases {r : Res Unit} {t : State} (h : r.endPort = .next t) :
    (∃ u, r = .ok u t) ∨ ∃ c s, r = .fatal c s ∧ t = enterError c (some s.cur) s := by
  cases r with
  | ok u s => cases h; exact .inl ⟨u, rfl⟩
  | fatal c s => cases h; exact .inr ⟨c, s, rfl, rfl⟩
  | stop f => cases h

/-- An EL step's action ends in a next state normally or by Error entry, and in nothing else. -/
theorem endLoop_cases {r : Res Unit} {t : State} (h : r.endLoop = .next t) :
    (∃ u, r = .ok u t) ∨ ∃ c s, r = .fatal c s ∧ t = enterError c none s := by
  cases r with
  | ok u s => cases h; exact .inl ⟨u, rfl⟩
  | fatal c s => cases h; exact .inr ⟨c, s, rfl, rfl⟩
  | stop f => cases h

/-! ## Slots -/

theorem setLen_cases {s t : State} {h n : Nat} {u : Unit} (hr : setLen h n s = .ok u t) :
    h < s.cfg.slots ∧ t = { s with len := s.len.set h n } := by
  unfold setLen at hr
  split at hr
  · cases hr
  · cases hr; simp_all

theorem setLen_not_fatal {s t : State} {h n : Nat} {c : Cause} : setLen h n s ≠ .fatal c t := by
  unfold setLen; split <;> simp

theorem setOwner_cases {s t : State} {h : Nat} {tag : Owner} {u : Unit} (hr : setOwner h tag s = .ok u t) :
    h < s.cfg.slots ∧ t = s.withOwner h tag := by
  unfold setOwner at hr
  split at hr
  · cases hr
  · cases hr; simp_all

theorem setOwner_not_fatal {s t : State} {h : Nat} {tag : Owner} {c : Cause} : setOwner h tag s ≠ .fatal c t := by
  unfold setOwner; split <;> simp

theorem ownerAt_withOwner_same {s : State} {h : Nat} {tag : Owner} (hh : h < s.owner.length) :
    (s.withOwner h tag).ownerAt h = tag := by
  simp [State.ownerAt, List.getD, hh]

theorem ownerAt_withOwner_other {s : State} {h h' : Nat} {tag : Owner} (hne : h' ≠ h) :
    (s.withOwner h tag).ownerAt h' = s.ownerAt h' := by
  simp [State.ownerAt, List.getD, List.getElem?_set_ne (Ne.symm hne)]

/-! ## The pool -/

/-- The lowest free slot: it is free and no lower slot is. -/
theorem firstFree_spec {s : State} {h : Nat} (hf : s.firstFree = some h) :
    h < s.owner.length ∧ s.ownerAt h = .free ∧ ∀ k < h, s.ownerAt k ≠ .free := by
  obtain ⟨hlt, hfree, hlow⟩ := List.findIdx?_eq_some_iff_getElem.1 hf
  refine ⟨hlt, ?_, fun k hk => ?_⟩
  · simpa [State.ownerAt, List.getD, hlt] using hfree
  · have hkl : k < s.owner.length := Nat.lt_trans hk hlt
    have := hlow k hk
    simpa [State.ownerAt, List.getD, hkl] using this

theorem firstFree_none_iff {s : State} : s.firstFree = none ↔ s.freeCount = 0 := by
  unfold State.firstFree State.freeCount
  rw [List.findIdx?_eq_none_iff, List.count_eq_zero]
  constructor
  · intro h hm
    simpa using h _ hm
  · intro h x hx
    by_contra hc
    simp only [Bool.not_eq_false, decide_eq_true_eq] at hc
    exact h (hc ▸ hx)

/-- PoolAlloc gives the lowest free slot its new tag, or finds the pool empty. -/
theorem poolAlloc_cases (tag : Owner) (s : State) :
    (s.freeCount = 0 ∧ poolAlloc tag s = .fatal .poolExhausted s) ∨
      ∃ h, s.firstFree = some h ∧ poolAlloc tag s = .ok h (s.withOwner h tag) := by
  unfold poolAlloc
  cases hf : s.firstFree with
  | none => exact .inl ⟨firstFree_none_iff.1 hf, rfl⟩
  | some h => exact .inr ⟨h, rfl, rfl⟩

theorem poolTryAlloc_cases (tag : Owner) (s : State) :
    (s.freeCount = 0 ∧ poolTryAlloc tag s = .ok none s) ∨
      ∃ h, s.firstFree = some h ∧ poolTryAlloc tag s = .ok (some h) (s.withOwner h tag) := by
  unfold poolTryAlloc
  by_cases h0 : s.freeCount = 0
  · exact .inl ⟨h0, by simp [h0]⟩
  · rcases poolAlloc_cases tag s with ⟨h, -⟩ | ⟨h, hf, ha⟩
    · exact absurd h h0
    · exact .inr ⟨h, hf, by simp [h0, ha]⟩

/-- PoolFree frees a slot of the pool that is not free, and is fatal otherwise, FOREIGN_HANDLE before DOUBLE_FREE. -/
theorem poolFree_cases (handle : Option Nat) (s : State) :
    (∃ h, handle = some h ∧ h < s.cfg.slots ∧ s.ownerAt h ≠ .free ∧ poolFree handle s = .ok () (s.withOwner h .free)) ∨
      ((∀ h, handle = some h → ¬ h < s.cfg.slots) ∧ poolFree handle s = .fatal .foreignHandle s) ∨
      ∃ h, handle = some h ∧ h < s.cfg.slots ∧ s.ownerAt h = .free ∧ poolFree handle s = .fatal .doubleFree s := by
  cases handle with
  | none => exact .inr (.inl ⟨by simp, rfl⟩)
  | some h =>
    by_cases hh : h < s.cfg.slots
    · by_cases ho : s.ownerAt h = .free
      · exact .inr (.inr ⟨h, rfl, hh, ho, by simp [poolFree, hh, ho]⟩)
      · exact .inl ⟨h, rfl, hh, ho, by simp [poolFree, hh, ho]⟩
    · exact .inr (.inl ⟨by simpa using hh, by simp [poolFree, hh]⟩)

/-! ## The queues -/

/-- Enqueue appends the handle and gives its slot the tag. -/
theorem enqueue_cases {q : Queue} {h : Nat} {tag : Owner} {s t : State} {u : Unit} (hr : enqueue q h tag s = .ok u t) :
    (s.queue q).length ≠ s.capacity q ∧ h < s.cfg.slots ∧ t = (s.withQueue q (s.queue q ++ [h])).withOwner h tag := by
  unfold enqueue at hr
  split at hr
  · cases hr
  · rename_i hlen
    obtain ⟨hh, ht⟩ := setOwner_cases hr
    refine ⟨hlen, ?_, ht⟩
    cases q <;> exact hh

theorem enqueue_fatal {q : Queue} {h : Nat} {tag : Owner} {s t : State} {c : Cause} (hr : enqueue q h tag s = .fatal c t) :
    (s.queue q).length = s.capacity q ∧ c = .queueOverflow ∧ t = s := by
  unfold enqueue at hr
  split at hr
  · rename_i hlen; cases hr; exact ⟨hlen, rfl, rfl⟩
  · exact absurd hr setOwner_not_fatal

/-- Dequeue takes the oldest handle and gives its slot the tag. -/
theorem dequeue_cases {q : Queue} {tag : Owner} {s t : State} {h : Nat} (hr : dequeue q tag s = .ok h t) :
    ∃ rest, s.queue q = h :: rest ∧ h < s.cfg.slots ∧ t = (s.withQueue q rest).withOwner h tag := by
  unfold dequeue at hr
  split at hr
  · cases hr
  · rename_i h' rest hq
    obtain ⟨u, s', hs, hk⟩ := bind_eq_ok hr
    cases hk
    obtain ⟨hh, rfl⟩ := setOwner_cases hs
    refine ⟨rest, hq, ?_, rfl⟩
    cases q <;> exact hh

theorem dequeue_fatal {q : Queue} {tag : Owner} {s t : State} {c : Cause} (hr : dequeue q tag s = .fatal c t) :
    s.queue q = [] ∧ c = .queueUnderflow ∧ t = s := by
  unfold dequeue at hr
  split at hr
  · rename_i hq; cases hr; exact ⟨hq, rfl, rfl⟩
  · rcases bind_eq_fatal hr with hr | ⟨_, _, _, hr⟩
    · exact absurd hr setOwner_not_fatal
    · cases hr

/-! ## The ports -/

@[simp] theorem answered_busy (pt : Port) (r : Response) : (pt.answered r).busy = false := rfl
@[simp] theorem answered_cmd (pt : Port) (r : Response) : (pt.answered r).cmd = pt.cmd := rfl
@[simp] theorem answered_wdata (pt : Port) (r : Response) : (pt.answered r).wdata = pt.wdata := rfl
@[simp] theorem answered_phase (pt : Port) (r : Response) : (pt.answered r).phase = pt.phase := rfl
@[simp] theorem answered_done (pt : Port) (r : Response) : (pt.answered r).done = pt.done := rfl
@[simp] theorem answered_replies (pt : Port) (r : Response) : (pt.answered r).replies = pt.replies ++ [r] := rfl

theorem port_withPort_same {s : State} {p : Nat} {pt : Port} (hp : p < s.ports.length) : (s.withPort p pt).port p = pt := by
  simp [State.port, List.getD, hp]

theorem port_withPort_other {s : State} {p q : Nat} {pt : Port} (hne : q ≠ p) : (s.withPort p pt).port q = s.port q := by
  simp [State.port, List.getD, List.getElem?_set_ne (Ne.symm hne)]

/-- RELEASE answers every port but the one kept that holds a byte-stream command (43 R183). -/
theorem release_port {s : State} {keep : Option Nat} {q : Nat} :
    (s.release keep).port q = if keep = some q then s.port q else (s.port q).released := by
  unfold State.port
  simp only [release_ports, List.getD, List.getElem?_mapIdx]
  cases hq : s.ports[q]? with
  | none =>
    have : Port.idle.released = Port.idle := by decide
    simp [this]
  | some pt => simp

@[simp] theorem release_ports_length (s : State) (keep : Option Nat) : (s.release keep).ports.length = s.ports.length := by
  simp

/-! ## Error entry -/

/-- Error entry writes `STATE`, `ERRCAUSE` and the ports, and nothing else (60 R265). -/
theorem enterError_frame (c : Cause) (port : Option Nat) (s : State) :
    enterError c port s =
      { s with state := .error, errCause := some c, ports := (enterError c port s).ports } := by
  cases port <;> rfl

@[simp] theorem enterError_state (c : Cause) (port : Option Nat) (s : State) : (enterError c port s).state = .error := by
  cases port <;> rfl

@[simp] theorem enterError_errCause (c : Cause) (port : Option Nat) (s : State) :
    (enterError c port s).errCause = some c := by
  cases port <;> rfl

/-! ## Derived readings that an update of other fields leaves alone -/

@[simp] theorem ready_respond (s : State) (r : Rstat) (v : Word) (d : List Byte) : (s.respond r v d).ready = s.ready := rfl
@[simp] theorem ready_withOwner (s : State) (h : Nat) (tag : Owner) : (s.withOwner h tag).ready = s.ready := rfl
@[simp] theorem ready_raiseTxp (s : State) : s.raiseTxp.ready = s.ready := rfl
@[simp] theorem ready_raiseFetch (s : State) : s.raiseFetch.ready = s.ready := rfl
@[simp] theorem byteAt_withOwner (s : State) (h : Nat) (tag : Owner) : (s.withOwner h tag).byteAt = s.byteAt := rfl
@[simp] theorem byteAt_respond (s : State) (r : Rstat) (v : Word) (d : List Byte) : (s.respond r v d).byteAt = s.byteAt := rfl
@[simp] theorem lenAt_withOwner (s : State) (h : Nat) (tag : Owner) : (s.withOwner h tag).lenAt = s.lenAt := rfl
@[simp] theorem lenAt_respond (s : State) (r : Rstat) (v : Word) (d : List Byte) : (s.respond r v d).lenAt = s.lenAt := rfl

end Sys2Proof.Machine
end

