-- ==== Sys2Proof/Laws/Paths.lean ====
section
/-! SUPPORT. What each micro-operation of the transmit and receive paths can do: FLUSH_CORE, ADOPT, CONSUME, and one pass of RX_FILL and TX_DRAIN. -/

namespace Sys2Proof.Machine

/-! ## FLUSH_CORE and the fill packet (41 R130) -/

/-- FLUSH_CORE puts the fill packet, of the length filled, last in the transmit queue, signals the loop, and takes the lowest free slot. -/
theorem flushCore_cases {s t : State} {u : Unit} (hr : flushCore s = .ok u t) :
    ∃ h h', s.fill = some h ∧ h < s.cfg.slots ∧ s.txq.length ≠ s.cfg.qtx ∧ (s.withOwner h .txq).firstFree = some h'
      ∧ t = { s with
          len := s.len.set h s.fillPos, txq := s.txq ++ [h], owner := (s.owner.set h .txq).set h' .fill
          evt := { s.evt with txp := true }, fill := some h', fillPos := 0 } := by
  unfold flushCore at hr
  split at hr
  · cases hr
  · rename_i h hf
    obtain ⟨_, s1, h1, hr⟩ := bind_eq_ok hr
    obtain ⟨hh, rfl⟩ := setLen_cases h1
    obtain ⟨_, s2, h2, hr⟩ := bind_eq_ok hr
    obtain ⟨hq, -, rfl⟩ := enqueue_cases h2
    obtain ⟨h', s3, h3, hr⟩ := bind_eq_ok hr
    rcases poolAlloc_cases .fill { State.raiseTxp (State.withOwner (State.withQueue { s with len := s.len.set h s.fillPos } .tx
      (State.queue { s with len := s.len.set h s.fillPos } .tx ++ [h])) h .txq) with fill := none, fillPos := 0 } with
      ⟨-, ha⟩ | ⟨k, hk, ha⟩
    · rw [ha] at h3; cases h3
    · rw [ha] at h3; cases h3; cases hr
      exact ⟨h, _, hf, hh, hq, hk, rfl⟩

/-- FLUSH_CORE is fatal on a full queue, with `LEN` written, and on an empty pool, with the packet enqueued and the event raised. -/
theorem flushCore_fatal {s t : State} {c : Cause} (hr : flushCore s = .fatal c t) :
    ∃ h, s.fill = some h ∧ h < s.cfg.slots
      ∧ ((s.txq.length = s.cfg.qtx ∧ c = .queueOverflow ∧ t = { s with len := s.len.set h s.fillPos })
        ∨ ((s.withOwner h .txq).freeCount = 0 ∧ c = .poolExhausted
          ∧ t = { s with
              len := s.len.set h s.fillPos, txq := s.txq ++ [h], owner := s.owner.set h .txq
              evt := { s.evt with txp := true }, fill := none, fillPos := 0 })) := by
  unfold flushCore at hr
  split at hr
  · cases hr
  · rename_i h hf
    rcases bind_eq_fatal hr with hr | ⟨_, s1, h1, hr⟩
    · exact absurd hr setLen_not_fatal
    obtain ⟨hh, rfl⟩ := setLen_cases h1
    refine ⟨h, hf, hh, ?_⟩
    rcases bind_eq_fatal hr with hr | ⟨_, s2, h2, hr⟩
    · obtain ⟨hq, rfl, rfl⟩ := enqueue_fatal hr
      exact .inl ⟨hq, rfl, rfl⟩
    obtain ⟨hq, -, rfl⟩ := enqueue_cases h2
    rcases bind_eq_fatal hr with hr | ⟨_, _, _, hr⟩
    · rcases poolAlloc_cases .fill { State.raiseTxp (State.withOwner (State.withQueue { s with len := s.len.set h s.fillPos } .tx
        (State.queue { s with len := s.len.set h s.fillPos } .tx ++ [h])) h .txq) with fill := none, fillPos := 0 } with
        ⟨h0, ha⟩ | ⟨k, -, ha⟩
      · rw [ha] at hr; cases hr
        exact .inr ⟨h0, rfl, rfl⟩
      · rw [ha] at hr; cases hr
    · cases hr

/-- FLUSH_CORE ends normally with room in the queue and a free slot besides the fill slot. -/
theorem flushCore_ok {s : State} {h h' : Nat} (hf : s.fill = some h) (hh : h < s.cfg.slots) (hq : s.txq.length ≠ s.cfg.qtx)
    (hk : (s.withOwner h .txq).firstFree = some h') :
    flushCore s = .ok () { s with
      len := s.len.set h s.fillPos, txq := s.txq ++ [h], owner := (s.owner.set h .txq).set h' .fill
      evt := { s.evt with txp := true }, fill := some h', fillPos := 0 } := by
  have ha : poolAlloc .fill { s with
      len := s.len.set h s.fillPos, txq := s.txq ++ [h], owner := s.owner.set h .txq
      evt := { s.evt with txp := true }, fill := none, fillPos := 0 } = .ok h' { s with
      len := s.len.set h s.fillPos, txq := s.txq ++ [h], owner := (s.owner.set h .txq).set h' .fill
      evt := { s.evt with txp := true }, fill := none, fillPos := 0 } := by
    unfold poolAlloc
    have : State.firstFree { s with
      len := s.len.set h s.fillPos, txq := s.txq ++ [h], owner := s.owner.set h .txq
      evt := { s.evt with txp := true }, fill := none, fillPos := 0 } = some h' := hk
    rw [this]; rfl
  simp only [flushCore, hf, setLen, hh, not_true_eq_false, if_false, bind_ok, enqueue, State.queue, State.capacity, hq, setOwner,
    State.withQueue, State.withOwner, State.raiseTxp, ha]

/-- The bytes go to the fill slot at the fill position, which moves past them. -/
theorem appendFill_cases {s t : State} {bs : List Byte} {u : Unit} (hr : appendFill bs s = .ok u t) :
    ∃ h, s.fill = some h
      ∧ t = { s with data := Memory.writeAll s.data h s.fillPos bs, fillPos := s.fillPos + bs.length } := by
  unfold appendFill at hr
  split at hr
  · cases hr
  · rename_i h hf
    obtain ⟨_, s1, h1, hr⟩ := bind_eq_ok hr
    obtain rfl := writeBytes_cases h1
    cases hr
    exact ⟨h, hf, rfl⟩

theorem appendFill_not_fatal {s t : State} {bs : List Byte} {c : Cause} : appendFill bs s ≠ .fatal c t := by
  intro hr
  unfold appendFill at hr
  split at hr
  · cases hr
  · rcases bind_eq_fatal hr with hr | ⟨_, _, _, hr⟩
    · exact writeBytes_not_fatal hr
    · cases hr

theorem appendFill_ok {s : State} {h : Nat} {bs : List Byte} (hf : s.fill = some h) (hh : h < s.cfg.slots)
    (hl : s.fillPos + bs.length ≤ 32) :
    appendFill bs s = .ok () { s with data := Memory.writeAll s.data h s.fillPos bs, fillPos := s.fillPos + bs.length } := by
  simp [appendFill, hf, writeBytes_ok hh hl]

/-! ## ADOPT and CONSUME (42 R160, R161) -/

/-- ADOPT takes the head of the receive queue into the drain slot and raises the fetch signal. -/
theorem adopt_cases {s t : State} {u : Unit} (hr : adopt s = .ok u t) :
    ∃ h rest, s.rxq = h :: rest ∧ h < s.cfg.slots
      ∧ t = { s with
          rxq := rest, owner := s.owner.set h .drain, evt := { s.evt with fetch := true }, drain := some h, drainPos := 0 } := by
  unfold adopt at hr
  obtain ⟨h, s1, h1, hr⟩ := bind_eq_ok hr
  obtain ⟨rest, hq, hh, rfl⟩ := dequeue_cases h1
  cases hr
  exact ⟨h, rest, hq, hh, rfl⟩

theorem adopt_fatal {s t : State} {c : Cause} (hr : adopt s = .fatal c t) : s.rxq = [] ∧ c = .queueUnderflow ∧ t = s := by
  unfold adopt at hr
  rcases bind_eq_fatal hr with hr | ⟨_, _, _, hr⟩
  · exact dequeue_fatal hr
  · cases hr

/-- CONSUME returns the next `k` unread bytes of the drain packet, and frees the packet with its last byte. -/
theorem consume_cases {s t : State} {k : Nat} {out : List Byte} (hr : consume k s = .ok out t) :
    ∃ h, s.drain = some h ∧ 1 ≤ k ∧ k ≤ s.lenAt h - s.drainPos ∧ out = (List.range k).map (fun j => s.byteAt h (s.drainPos + j))
      ∧ ((s.drainPos + k = s.lenAt h ∧ h < s.cfg.slots ∧ s.ownerAt h ≠ .free
          ∧ t = { s with owner := s.owner.set h .free, drain := none, drainPos := 0 })
        ∨ (s.drainPos + k ≠ s.lenAt h ∧ t = { s with drainPos := s.drainPos + k })) := by
  unfold consume at hr
  split at hr
  · cases hr
  · rename_i h hd
    split at hr
    · cases hr
    · rename_i hk
      obtain ⟨hk1, hk2⟩ := not_not.1 hk
      obtain ⟨bs, s1, h1, hr⟩ := bind_eq_ok hr
      obtain ⟨rfl, rfl⟩ := readBytes_cases h1
      simp only at hr
      split at hr
      · rename_i hlast
        obtain ⟨_, s2, h2, hr⟩ := bind_eq_ok hr
        cases hr
        rcases poolFree_cases s1.drain { s1 with drainPos := s1.drainPos + k } with
          ⟨h', he, hh, ho, hp⟩ | ⟨-, hp⟩ | ⟨_, _, _, _, hp⟩
        · rw [hp] at h2; cases h2
          obtain rfl : h = h' := Option.some.inj (hd.symm.trans he)
          exact ⟨h, hd, hk1, hk2, rfl, .inl ⟨hlast, hh, ho, rfl⟩⟩
        · rw [hp] at h2; cases h2
        · rw [hp] at h2; cases h2
      · rename_i hlast
        cases hr
        exact ⟨h, hd, hk1, hk2, rfl, .inr ⟨hlast, rfl⟩⟩

/-- CONSUME is fatal only with the last byte of a drain packet whose slot is free, and has then moved `DRAINPOS` and written nothing else
(00 R13). -/
theorem consume_fatal {s t : State} {k : Nat} {c : Cause} (hr : consume k s = .fatal c t) :
    ∃ h, s.drain = some h ∧ 1 ≤ k ∧ s.drainPos + k = s.lenAt h ∧ s.ownerAt h = .free ∧ c = .doubleFree
      ∧ t = { s with drainPos := s.lenAt h } := by
  unfold consume at hr
  split at hr
  · cases hr
  · rename_i h hd
    split at hr
    · cases hr
    · rename_i hk
      obtain ⟨hk1, -⟩ := not_not.1 hk
      rcases bind_eq_fatal hr with h1 | ⟨_, s1, h1, h2⟩
      · exact absurd h1 readBytes_not_fatal
      have hslot : h < s.cfg.slots := readBytes_slot hk1 h1
      obtain ⟨rfl, -⟩ := readBytes_cases h1
      clear hr
      simp only at h2
      split at h2
      · rename_i hlast
        rcases bind_eq_fatal h2 with hr | ⟨_, _, _, hr⟩
        · rcases poolFree_cases s1.drain { s1 with drainPos := s1.drainPos + k } with
            ⟨_, _, _, _, hp⟩ | ⟨hn, hp⟩ | ⟨h', he, -, ho, hp⟩
          · rw [hp] at hr; cases hr
          · exact absurd hslot (hn h hd)
          · rw [hp] at hr; cases hr
            obtain rfl : h = h' := Option.some.inj (hd.symm.trans he)
            refine ⟨h, hd, hk1, hlast, ho, rfl, ?_⟩
            rw [show s1.lenAt h = s1.drainPos + k from hlast.symm]
        · cases hr
      · cases h2

/-! ## One pass of TX_DRAIN (44 R218) -/

/-- The hand-off traces one transaction, and for a send draws its answer; nothing else changes. -/
theorem handOff_cases (kind : TxKind) (d : List Byte) (n : Nat) (s : State) :
    (kind = .send ∧ handOff kind d n s = (s.answer.flag, s.drawn.traced (.send d n true s.answer.flag)))
      ∨ (kind = .ack ∧ handOff kind d n s = (true, s.traced (.ackPayload s.cfg.ackPipe d n))) := by
  cases kind
  · exact .inl ⟨rfl, rfl⟩
  · exact .inr ⟨rfl, rfl⟩

/-- A packet's pass takes the head of the transmit queue, hands its bytes to the radio and frees its slot. -/
theorem txOne_cases {kind : TxKind} {s t : State} {more : Bool} (hr : txOne kind s = .ok more t) :
    ∃ h rest s1, s.txq = h :: rest ∧ h < s.cfg.slots ∧ s1 = { s with txq := rest, owner := s.owner.set h .inflight }
      ∧ handOff kind ((List.range (s.lenAt h)).map fun j => s.byteAt h (0 + j)) (s.lenAt h) s1 = (more, { t with owner := s1.owner })
      ∧ t.owner = s1.owner.set h .free := by
  unfold txOne at hr
  obtain ⟨h, s1, h1, hr⟩ := bind_eq_ok hr
  obtain ⟨rest, hq, hh, rfl⟩ := dequeue_cases h1
  obtain ⟨d, s2, h2, hr⟩ := bind_eq_ok hr
  obtain ⟨rfl, rfl⟩ := readBytes_cases h2
  obtain ⟨u, s3, h3, hr⟩ := bind_eq_ok hr
  cases hr
  rcases poolFree_cases (some h) (handOff kind ((List.range (s.lenAt h)).map fun j => s.byteAt h (0 + j)) (s.lenAt h)
    { s with txq := rest, owner := s.owner.set h .inflight }).2 with ⟨h', he, -, -, hp⟩ | ⟨-, hp⟩ | ⟨_, _, _, _, hp⟩
  · obtain rfl : h = h' := Option.some.inj he
    have h3' : poolFree (some h) (handOff kind ((List.range (s.lenAt h)).map fun j => s.byteAt h (0 + j)) (s.lenAt h)
      { s with txq := rest, owner := s.owner.set h .inflight }).2 = .ok u t := h3
    rw [hp] at h3'
    cases h3'
    refine ⟨h, rest, _, hq, hh, rfl, ?_, ?_⟩
    · rcases handOff_cases kind ((List.range (s.lenAt h)).map fun j => s.byteAt h (0 + j)) (s.lenAt h)
        { s with txq := rest, owner := s.owner.set h .inflight } with ⟨rfl, he⟩ | ⟨rfl, he⟩
      · refine Prod.ext rfl ?_
        cases hans : s.answers <;> simp [handOff, radioSend, State.withOwner, State.traced, State.drawn,
          State.answer, State.lenAt, State.byteAt]
      · rfl
    · rcases handOff_cases kind ((List.range (s.lenAt h)).map fun j => s.byteAt h (0 + j)) (s.lenAt h)
        { s with txq := rest, owner := s.owner.set h .inflight } with ⟨rfl, he⟩ | ⟨rfl, he⟩
      · cases hans : s.answers <;> simp [handOff, radioSend, State.withOwner, State.traced, State.drawn]
      · rfl
  · have h3' : poolFree (some h) (handOff kind ((List.range (s.lenAt h)).map fun j => s.byteAt h (0 + j)) (s.lenAt h)
      { s with txq := rest, owner := s.owner.set h .inflight }).2 = .ok u t := h3
    rw [hp] at h3'; cases h3'
  · have h3' : poolFree (some h) (handOff kind ((List.range (s.lenAt h)).map fun j => s.byteAt h (0 + j)) (s.lenAt h)
      { s with txq := rest, owner := s.owner.set h .inflight }).2 = .ok u t := h3
    rw [hp] at h3'; cases h3'

/-! ## One pass of RX_FILL (44 R217) -/

/-- A received packet is asked of the radio, written into its slot with its length, and put last in the receive queue. -/
theorem rxLoad_cases {h n : Nat} {s t : State} {u : Unit} (hr : rxLoad h n s = .ok u t) :
    h < s.cfg.slots ∧ s.drawn.rxq.length ≠ s.drawn.cfg.qrx
      ∧ t = { s.drawn with
          rtrace := s.drawn.rtrace ++ [.rxPayload n (s.answer.payload.toList.take n)]
          data := Memory.writeAll s.drawn.data h 0 (s.answer.payload.toList.take n)
          len := s.drawn.len.set h n, rxq := s.drawn.rxq ++ [h], owner := s.drawn.owner.set h .rxq } := by
  unfold rxLoad at hr
  obtain ⟨_, s1, h1, hr⟩ := bind_eq_ok hr
  obtain rfl := writeBytes_cases h1
  obtain ⟨_, s2, h2, hr⟩ := bind_eq_ok hr
  obtain ⟨hh, rfl⟩ := setLen_cases h2
  obtain ⟨hq, -, rfl⟩ := enqueue_cases hr
  refine ⟨?_, hq, rfl⟩
  have hc : s.drawn.cfg = s.cfg := by cases hans : s.answers <;> simp [State.drawn, hans]
  exact hc ▸ hh

theorem rxLoad_fatal {h n : Nat} {s t : State} {c : Cause} (hr : rxLoad h n s = .fatal c t) :
    s.drawn.rxq.length = s.drawn.cfg.qrx ∧ c = .queueOverflow := by
  unfold rxLoad at hr
  rcases bind_eq_fatal hr with hr | ⟨_, s1, h1, hr⟩
  · exact absurd hr writeBytes_not_fatal
  obtain rfl := writeBytes_cases h1
  rcases bind_eq_fatal hr with hr | ⟨_, s2, h2, hr⟩
  · exact absurd hr setLen_not_fatal
  obtain ⟨-, rfl⟩ := setLen_cases h2
  obtain ⟨hq, rfl, -⟩ := enqueue_fatal hr
  exact ⟨hq, rfl⟩

end Sys2Proof.Machine
end

