-- ==== Sys2Proof/Laws/PerInstr.lean ====
section
/-! SUPPORT. The per-instruction family EncodedFields: the fields OP and RSV of every encoded command (30 R80, R81). -/

namespace Sys2Proof.Laws.EncodedFields

/-- The opcode of a command (30 R81). -/
def opcode : Instr → BitVec 4
  | .put _ => 1
  | .write _ => 2
  | .flush => 3
  | .get => 4
  | .read _ => 5
  | .avail => 6
  | .start _ => 7
  | .stop => 8
  | .reset => 9
  | .stats _ => 10
  | .status _ => 11

/-- The encoded word has the command's opcode and a zero reserved field. -/
def Statement (i : Instr) : Prop := Word.op (encode i) = opcode i ∧ Word.rsv (encode i) = 0

theorem put (b : BitVec 8) : Statement (.put b) := ⟨op_word _ _, rsv_word _ _⟩
theorem write (n : BitVec 24) : Statement (.write n) := ⟨op_word _ _, rsv_word _ _⟩
theorem flush : Statement .flush := ⟨op_word _ _, rsv_word _ _⟩
theorem get : Statement .get := ⟨op_word _ _, rsv_word _ _⟩
theorem read (maxN : BitVec 24) : Statement (.read maxN) := ⟨op_word _ _, rsv_word _ _⟩
theorem avail : Statement .avail := ⟨op_word _ _, rsv_word _ _⟩
theorem start (mode : BitVec 2) : Statement (.start mode) := ⟨op_word _ _, rsv_word _ _⟩
theorem stop : Statement .stop := ⟨op_word _ _, rsv_word _ _⟩
theorem reset : Statement .reset := ⟨op_word _ _, rsv_word _ _⟩
theorem stats (sel : BitVec 2) : Statement (.stats sel) := ⟨op_word _ _, rsv_word _ _⟩
theorem status (sel : BitVec 3) : Statement (.status sel) := ⟨op_word _ _, rsv_word _ _⟩

end Sys2Proof.Laws.EncodedFields
end

