-- ==== Sys2Proof/Tests/Slice0.lean ====
section
/-! SUPPORT. Tests of the model against the vectors of spec 95, the WellFormed smoke tests, and for each obligation with hypotheses a state that meets them. -/

namespace Sys2Proof.Tests

open Sys2Proof.Machine

/-! ## Helpers: the state common to a table of spec 95, and what a test reads off an outcome -/

/-- The tag of slot `h` that agrees with the references given (10 R37). -/
def tagOf (fill drain : Option Nat) (txq rxq : List Nat) (h : Nat) : Owner :=
  if fill = some h then .fill else if drain = some h then .drain
  else if h ∈ txq then .txq else if h ∈ rxq then .rxq else .free

/-- A block with the given control state, fill position and references; every packet is 4 bytes long. -/
def block (st : AdapterState) (m : Mode) (r : Role) (pos : Nat) (txq rxq : List Nat) (drain : Option Nat) : State :=
  let fill := if st = .stopped then none else some 0
  { State.reset with
    state := st, mode := m, role := r, fill := fill, fillPos := pos, txq := txq, rxq := rxq, drain := drain
    len := List.replicate 10 4, owner := (List.range 10).map (tagOf fill drain txq rxq) }

/-- The state common to the table of 95 section 2.3. -/
def tx (pos : Nat) (txq : List Nat) : State := block .transmitting .ptxOnly .ptx pos txq [] none

/-- The state common to the table of 95 section 2.4. -/
def rx (rxq : List Nat) (drain : Option Nat) : State := block .receiving .prxOnly .prx 0 [] rxq drain

/-- Port 0 holds the word with its payload, in the given phase and with `done` bytes appended, and is chosen next. -/
def holding (s : State) (w : Word) (payload : List Byte := []) (ph : Phase := .a) (done : Nat := 0) : State :=
  { s with ports := s.ports.set 0 ⟨true, w, payload, ph, done, []⟩, schedule := [.port 0] }

/-- Port 1 holds the word. -/
def holding1 (s : State) (w : Word) : State := { s with ports := s.ports.set 1 ⟨true, w, [], .a, 0, []⟩ }

/-- The event loop is chosen next, and the radio answers the given draws. -/
def looping (s : State) (answers : List RadioAnswer) : State := { s with schedule := [.el], answers := answers }

/-- A radio answer that is a boolean. -/
def flag (b : Bool) : RadioAnswer := { flag := b }

/-- A radio answer that is a status: dataSent, maxRetriesExceeded, dataReceived. -/
def poll (sent maxRt rcvd : Bool) : RadioAnswer :=
  { status := { dataSent := sent, maxRetriesExceeded := maxRt, dataReceived := rcvd } }

/-- A radio answer that is a length. -/
def len (n : Byte) : RadioAnswer := { length := n }

/-- A radio answer whose payload is the given 32 bytes. -/
def pay (v : Vector Byte 32) : RadioAnswer := { payload := v }

/-- The next state, or the state after reset where there is none. -/
def after (o : Host.Outcome State Fault Refusal) : State :=
  match o with
  | .next t => t
  | .fault _ | .refused _ => State.reset

/-- The outcome is a next state. -/
def isNext (o : Host.Outcome State Fault Refusal) : Bool :=
  match o with
  | .next _ => true
  | .fault _ | .refused _ => false

theorem next_after {o : Host.Outcome State Fault Refusal} (h : isNext o = true) : o = .next (after o) := by
  cases o <;> first | rfl | cases h

/-- What a test reads of the next state, if there is one. -/
def see {α : Type} (o : Host.Outcome State Fault Refusal) (f : State → α) : Option α :=
  match o with
  | .next t => some (f t)
  | .fault _ | .refused _ => none

/-- There is a next state, and it passes the test. -/
def sat (o : Host.Outcome State Fault Refusal) (f : State → Bool) : Bool :=
  match o with
  | .next t => f t
  | .fault _ | .refused _ => false

/-- The responses port `p` has delivered. -/
def replies (p : Nat) (t : State) : List Response := (t.port p).replies

/-- The response `OK v` without bytes. -/
def ok (v : Word) : List Response := [⟨.ok, v, []⟩]

/-- The checks that make a state meet the invariant. -/
def checks (s : State) : Bool :=
  decide (s.cfg.wellFormed = true ∧ s.owner.length = s.cfg.slots ∧ s.len.length = s.cfg.slots
    ∧ (∀ n ∈ s.len, n ≤ Config.pkt) ∧ s.ports.length = s.cfg.nport)
  && decide ((∀ h < s.cfg.slots, (s.ownerAt h = .fill ↔ s.fill = some h))
    ∧ (∀ h < s.cfg.slots, (s.ownerAt h = .drain ↔ s.drain = some h))
    ∧ (∀ h < s.cfg.slots, (s.ownerAt h = .txq ↔ h ∈ s.txq))
    ∧ (∀ h < s.cfg.slots, (s.ownerAt h = .rxq ↔ h ∈ s.rxq))
    ∧ (∀ h < s.cfg.slots, s.ownerAt h ≠ .inflight ∧ s.ownerAt h ≠ .loading)
    ∧ (∀ h ∈ s.fill, h < s.cfg.slots) ∧ (∀ h ∈ s.drain, h < s.cfg.slots)
    ∧ (∀ h ∈ s.txq, h < s.cfg.slots) ∧ (∀ h ∈ s.rxq, h < s.cfg.slots) ∧ s.txq.Nodup ∧ s.rxq.Nodup)
  && decide (s.txq.length ≤ s.cfg.qtx ∧ s.rxq.length ≤ s.cfg.qrx ∧ (∀ h ∈ s.txq, 1 ≤ s.lenAt h)
    ∧ (∀ h ∈ s.rxq, 1 ≤ s.lenAt h) ∧ s.fillPos ≤ Config.pkt ∧ (s.fill = none → s.fillPos = 0)
    ∧ (s.drain = none → s.drainPos = 0) ∧ (∀ h ∈ s.drain, s.drainPos < s.lenAt h))
  && decide (s.state ≠ .error ∧ s.errCause = none ∧ (s.state = .receiving → s.role = .prx)
    ∧ (s.state = .transmitting → s.role = .ptx) ∧ (s.evt.stop = true ↔ s.state = .stopping)
    ∧ (s.fill = none ↔ s.state = .stopped) ∧ (s.state = .stopped → s.txq = [] ∧ s.rxq = [] ∧ s.drain = none)
    ∧ (∀ l ∈ s.cfg.stopPollLimit, s.stopPolls ≤ l))
  && decide (∀ pt ∈ s.ports, pt.busy = true →
    pt.wdata.length = (decode pt.cmd).payloadLength ∧ pt.done ≤ pt.wdata.length)

theorem consistent_of {s : State} (h : checks s = true) : Consistent s := by
  simp only [checks, Bool.and_eq_true, decide_eq_true_eq] at h
  obtain ⟨⟨⟨⟨⟨a1, a2, a3, a4, a5⟩, b1, b2, b3, b4, b5, b6, b7, b8, b9, b10, b11⟩, c1, c2, c3, c4, c5, c6, c7, c8⟩,
    d1, d2, d3, d4, d5, d6, d7, d8⟩, e⟩ := h
  exact ⟨⟨a1, a2, a3, a4, a5⟩, ⟨b1, b2, b3, b4, b5, b6, b7, b8, b9, b10, b11⟩, ⟨c1, c2, c3, c4, c5, c6, c7, c8⟩,
    ⟨d1, d2, d3, d4, d5, d6, d7, d8⟩, e⟩

/-! ## WellFormed: an ill-formed term for each check -/

theorem test_wf_start_mode : Instr.wellFormed (.start 3) = false ∧ Instr.wellFormed (.start 2) = true := by decide
theorem test_wf_status_sel :
    Instr.wellFormed (.status 6) = false ∧ Instr.wellFormed (.status 7) = false ∧ Instr.wellFormed (.status 5) = true := by decide
theorem test_wf_payload : Instr.payloadLength (.write 5) = 5 ∧ Instr.payloadLength (.read 5) = 0 := by decide
theorem test_wf_standard : Config.standard.wellFormed = true := by decide
theorem test_wf_slots :
    { Config.standard with slots := 7 }.wellFormed = false ∧ { Config.standard with slots := 8 }.wellFormed = true := by decide
theorem test_wf_qtx : { Config.standard with qtx := 0 }.wellFormed = false := by decide
theorem test_wf_qrx : { Config.standard with qrx := 0 }.wellFormed = false := by decide
theorem test_wf_qrx_top : { Config.standard with qrx := 67108864, slots := 67108869 }.wellFormed = false := by decide
theorem test_wf_nport : { Config.standard with nport := 0 }.wellFormed = false := by decide
theorem test_wf_payload_size :
    { Config.standard with payloadSize := 0 }.wellFormed = false ∧ { Config.standard with payloadSize := 33 }.wellFormed = false := by decide
theorem test_wf_ack_pipe : { Config.standard with ackPipe := 6 }.wellFormed = false := by decide
theorem test_wf_poll_limit :
    { Config.standard with stopPollLimit := some 0 }.wellFormed = false ∧ { Config.standard with stopPollLimit := none }.wellFormed = true := by decide

/-! ## Decoding: words written out from 30 R80 to R82 (OP, RSV, ARG), and E-1 to E-18 of 95 -/

theorem test_decode_put : decode 0b0001_0000_00000000_00000000_01000001 = .ok (.put 65) := by decide
theorem test_decode_put_top : decode 0x100000FF = .ok (.put 255) := by decide
theorem test_decode_write : decode 0b0010_0000_00000000_00000000_01100100 = .ok (.write 100) := by decide
theorem test_decode_write_top : decode 0x20FFFFFF = .ok (.write 16777215) := by decide
theorem test_decode_flush : decode 0b0011_0000_00000000_00000000_00000000 = .ok .flush := by decide
theorem test_decode_get : decode 0b0100_0000_00000000_00000000_00000000 = .ok .get := by decide
theorem test_decode_read : decode 0b0101_0000_00000000_00000000_00010000 = .ok (.read 16) := by decide
theorem test_decode_avail : decode 0b0110_0000_00000000_00000000_00000000 = .ok .avail := by decide
theorem test_decode_start : decode 0b0111_0000_00000000_00000000_00000010 = .ok (.start 2) := by decide
theorem test_decode_stop : decode 0b1000_0000_00000000_00000000_00000000 = .ok .stop := by decide
theorem test_decode_reset : decode 0b1001_0000_00000000_00000000_00000000 = .ok .reset := by decide
theorem test_decode_stats : decode 0b1010_0000_00000000_00000000_00000011 = .ok (.stats 3) := by decide
theorem test_decode_status : decode 0b1011_0000_00000000_00000000_00000101 = .ok (.status 5) := by decide
theorem test_decode_illegal_operand :
    decode 0x10000100 = .illegal .operand ∧ decode 0x30000001 = .illegal .operand ∧ decode 0x70000003 = .illegal .operand
    ∧ decode 0x70000004 = .illegal .operand ∧ decode 0xA0000004 = .illegal .operand ∧ decode 0xB0000007 = .illegal .operand
    ∧ decode 0x90000001 = .illegal .operand := by decide
theorem test_decode_illegal_reserved : decode 0x01000000 = .illegal .reserved ∧ decode 0x81000000 = .illegal .reserved := by decide
theorem test_decode_illegal_opcode :
    decode 0xC0000000 = .illegal .opcode ∧ decode 0xF0000000 = .illegal .opcode ∧ decode 0 = .illegal .opcode := by decide
theorem test_table_word : decodeTableWord 32 0x10000041 = some (.put 65) ∧ decodeTableWord 32 0x70000003 = none := by decide

/-! ## Codes (30 R86, R90 to R96) -/

theorem test_code_rstat :
    [Rstat.ok, .notReady, .rejected, .fatal, .illegal].map (fun r => r.code.toNat) = [0, 1, 2, 3, 7] := by decide
theorem test_code_state_mode_role :
    [AdapterState.stopped, .starting, .receiving, .transmitting, .stopping, .error].map (fun a => a.code.toNat) = [0, 1, 2, 3, 4, 5]
    ∧ [Mode.ptxOnly, .prxOnly, .adhoc].map (fun m => m.code.toNat) = [0, 1, 2]
    ∧ [Role.prx, .ptx].map (fun r => r.code.toNat) = [0, 1] := by decide
theorem test_code_cause :
    [none, some Cause.poolExhausted, some .doubleFree, some .foreignHandle, some .queueOverflow, some .queueUnderflow].map
      (fun c => (causeCode c).toNat) = [0, 1, 2, 3, 4, 5] := by decide
theorem test_code_owner :
    [Owner.free, .fill, .txq, .inflight, .rxq, .drain, .loading].map (fun o => o.code.toNat) = [0, 1, 2, 3, 4, 5, 6] := by decide
theorem test_code_status :
    packStatus { dataReceived := true } = 4 ∧ packStatus { receivedPipeNumber := 5 } = 40
    ∧ packStatus { txFifoFull := true, maxRetriesExceeded := true } = 66 := by decide
theorem test_code_radio :
    [RadioTxn.beginListening, .becomeTx, .send [] 0 true true, .resend, .poll true {}, .rxLen 0, .rxPayload 0 [], .ackPayload 0 [] 0,
      .txEmpty true, .txFull true].map RadioTxn.code = [0, 1, 2, 3, 4, 5, 6, 7, 8, 9] := by decide

/-! ## The pool and the queues (95 section 2.2) -/

/-- What an action leaves, for a test: the owners, or the cause of its fault. -/
def left {α : Type} (r : Res α) : Option Cause ⊕ List Owner :=
  match r with
  | .ok _ s => .inr s.owner
  | .fatal c _ => .inl (some c)
  | .stop _ => .inl none

theorem test_pool_alloc_lowest : left (poolAlloc .fill { tx 0 [2] with fill := none }) = .inr
    [.fill, .fill, .txq, .free, .free, .free, .free, .free, .free, .free] := by decide
theorem test_pool_free :
    left (poolFree (some 3) { tx 0 [] with owner := [.fill, .free, .free, .inflight] }) = .inr [.fill, .free, .free, .free]
    ∧ left (poolFree (some 3) (tx 0 [])) = .inl (some .doubleFree) ∧ left (poolFree none (tx 0 [])) = .inl (some .foreignHandle)
    ∧ left (poolFree (some 10) (tx 0 [])) = .inl (some .foreignHandle) := by decide
theorem test_pool_exhausted :
    left (poolAlloc .fill { tx 0 [] with owner := [.fill, .txq] }) = .inl (some .poolExhausted)
    ∧ left (poolTryAlloc .loading { tx 0 [] with owner := [.fill, .txq] }) = .inr [.fill, .txq] := by decide
theorem test_queue_faults :
    left (enqueue .tx 4 .txq (tx 0 [1, 2, 3])) = .inl (some .queueOverflow)
    ∧ left (dequeue .rx .drain (tx 0 [])) = .inl (some .queueUnderflow) := by decide
theorem test_dequeue_fifo :
    (match dequeue .tx .inflight (tx 0 [4, 1]) with | .ok h s => (h, s.txq) | _ => (0, [])) = (4, [1]) := by decide

/-! ## Commands: at most two vectors each (95 sections 2.3 to 2.5) -/

/-- T-P2. -/
theorem test_put_flushes :
    sat (step (holding (tx 31 []) 0x1000007A)) (fun t => decide (replies 0 t = ok 0 ∧ t.byteAt 0 31 = 122 ∧ t.lenAt 0 = 32
      ∧ t.txq = [0] ∧ t.fill = some 1 ∧ t.fillPos = 0 ∧ t.evt = { txp := true })) = true := by decide
/-- T-P3. -/
theorem test_put_waits :
    see (step (holding (tx 31 [1, 2, 3]) 0x1000007A)) (fun t => (replies 0 t, t.byteAt 0 31, t.fillPos, (t.port 0).phase, t.evt))
      = some ([], 122, 32, .b, {}) := by decide
/-- T-W3, step 1. -/
theorem test_write_crosses_packet :
    sat (step (holding (tx 30 []) 0x20000005 [118, 119, 120, 121, 122])) (fun t => decide (replies 0 t = [] ∧ t.byteAt 0 30 = 118
      ∧ t.byteAt 0 31 = 119 ∧ t.txq = [0] ∧ t.fill = some 1 ∧ t.fillPos = 0 ∧ (t.port 0).done = 2)) = true := by decide
/-- T-W3, step 2. -/
theorem test_write_finishes :
    see (step (holding (tx 0 []) 0x20000005 [118, 119, 120, 121, 122] .a 2)) (fun t =>
        (replies 0 t, [t.byteAt 0 0, t.byteAt 0 1, t.byteAt 0 2], t.fillPos, t.txq))
      = some (ok 5, [120, 121, 122], 3, []) := by decide
/-- T-F1. -/
theorem test_flush :
    sat (step (holding (tx 5 []) 0x30000000)) (fun t => decide (replies 0 t = ok 0 ∧ t.lenAt 0 = 5 ∧ t.txq = [0]
      ∧ t.fill = some 1 ∧ t.fillPos = 0 ∧ t.evt = { txp := true })) = true := by decide
/-- T-F4 (readiness before idempotence). -/
theorem test_flush_not_ready :
    see (step (holding State.reset 0x30000000)) (replies 0) = some [⟨.notReady, 0, []⟩] := by decide
/-- R-G2. -/
theorem test_get_adopts :
    see (step (holding { rx [2] none with data := [(64, 97), (65, 98), (66, 99)] } 0x40000000)) (fun t =>
        (replies 0 t, t.drain, t.drainPos, t.rxq, t.evt))
      = some (ok 0x61, some 2, 1, [], { fetch := true }) := by decide
/-- R-G3. -/
theorem test_get_frees :
    see (step (holding { rx [] (some 2) with drainPos := 3, data := [(67, 99)] } 0x40000000)) (fun t =>
        (replies 0 t, t.drain, t.drainPos, t.ownerAt 2, t.evt))
      = some (ok 0x63, none, 0, .free, {}) := by decide
/-- R-R3. -/
theorem test_read_all :
    sat (step (holding { rx [5] (some 2) with
        drainPos := 2, data := [(66, 98), (67, 99), (160, 119), (161, 120), (162, 121), (163, 122)] } 0x50000010)) (fun t =>
      decide (replies 0 t = [⟨.ok, 6, [98, 99, 119, 120, 121, 122]⟩] ∧ t.drain = none ∧ t.rxq = []
        ∧ t.ownerAt 2 = .free ∧ t.ownerAt 5 = .free ∧ t.evt = { fetch := true })) = true := by decide
/-- R-R5. -/
theorem test_read_stops_at_packet_end :
    see (step (holding { rx [5] (some 2) with drainPos := 2, data := [(66, 98), (67, 99)] } 0x50000002)) (fun t =>
        (replies 0 t, t.drain, t.rxq, t.ownerAt 2, t.evt))
      = some ([⟨.ok, 2, [98, 99]⟩], none, [5], .free, {}) := by decide
/-- R-A1. -/
theorem test_avail : see (step (holding { rx [5] (some 2) with drainPos := 2 } 0x60000000)) (replies 0) = some (ok 6) := by decide
/-- L-S1. -/
theorem test_start :
    sat (step (holding State.reset 0x70000001)) (fun t => decide (replies 0 t = ok 0 ∧ t.state = .starting ∧ t.mode = .prxOnly
      ∧ t.fill = some 0 ∧ t.freeCount = 9 ∧ t.role = .prx)) = true := by decide
/-- L-S3. -/
theorem test_start_rejected : see (step (holding (rx [] none) 0x70000000)) (fun t => (replies 0 t, t.state))
    = some ([⟨.rejected, 0, []⟩], .receiving) := by decide
/-- L-T1, with a GET held on port 1 (program 6). -/
theorem test_stop :
    see (step (holding (holding1 (rx [] none) 0x40000000) 0x80000000)) (fun t => (replies 0 t, replies 1 t, t.state, t.evt))
      = some (ok 0, [⟨.notReady, 0, []⟩], .stopping, { stop := true }) := by decide
/-- L-T2. -/
theorem test_stop_rejected :
    see (step (holding (block .starting .prxOnly .prx 0 [] [] none) 0x80000000)) (fun t => (replies 0 t, t.state))
      = some ([⟨.rejected, 0, []⟩], .starting) := by decide
/-- L-R1. -/
theorem test_reset :
    see (step (holding { tx 0 [1] with state := .error, errCause := some .doubleFree, cntRx := 7 } 0x90000000)) (fun t =>
        (replies 0 t, t.state, t.errCause, t.freeCount, t.cntRx))
      = some (ok 0, .stopped, none, 10, 7) := by decide
/-- L-C1. -/
theorem test_stats : see (step (holding { rx [] none with cntRx := 7 } 0xA0000003)) (replies 0) = some (ok 7) := by decide
/-- L-U1 and L-U2. -/
theorem test_status_state :
    see (step (holding (block .receiving .adhoc .prx 0 [] [] none) 0xB0000000)) (replies 0) = some (ok 0x12)
    ∧ see (step (holding { tx 0 [] with evt := { txp := true }, reuse := true } 0xB0000000)) (replies 0) = some (ok 0x2823) := by decide
/-- L-U3 and L-U4. -/
theorem test_status_error :
    see (step (holding { tx 0 [] with state := .error, errCause := some .poolExhausted, evt := { txp := true } } 0xB0000000)) (replies 0)
      = some (ok 0x865)
    ∧ see (step (holding (tx 7 []) 0xB0000004)) (replies 0) = some (ok 7) := by decide
/-- L-I2. -/
theorem test_illegal_in_error :
    see (step (holding { tx 0 [] with state := .error } 0xF0000000)) (fun t => (replies 0 t, t.state))
      = some ([⟨.illegal, 0, []⟩], .error) := by decide
/-- X-5: a faulting FLUSH, with a GET held on port 1. -/
theorem test_error_entry :
    sat (step (holding (holding1 { tx 5 [] with owner := .fill :: List.replicate 9 .txq } 0x40000000) 0x30000000)) (fun t =>
      decide (replies 0 t = [⟨.fatal, 0, []⟩] ∧ replies 1 t = [⟨.notReady, 0, []⟩] ∧ t.state = .error
        ∧ t.errCause = some .poolExhausted ∧ t.txq = [0] ∧ t.evt = { txp := true } ∧ t.fill = none)) = true := by decide
/-- A command fetched right after power-on runs (log 11): PUT in STOPPED is answered NOTREADY (T-P4). -/
theorem test_first_command : see (step (State.reset.withFetchWord 32 0x10000041)) (replies 0) = some [⟨.notReady, 0, []⟩] := by decide

/-- 42 R161: a GET of the last byte of a drain packet whose slot is free faults with `DRAINPOS` already advanced. -/
theorem test_get_double_free :
    see (step (holding { rx [] (some 2) with drainPos := 3, data := [(67, 99)], owner := List.replicate 10 .free } 0x40000000)) (fun t =>
        (replies 0 t, t.errCause, t.drain, t.drainPos, t.drainRemainder))
      = some ([⟨.fatal, 0, []⟩], some .doubleFree, some 2, 4, 0) := by decide

/-! ## The event loop and the interrupt input (95 section 2.6) -/

/-- The trace and a view of the state after a step. -/
def traceAnd {α : Type} (f : State → α) (t : State) : List RadioTxn × α := (t.rtrace, f t)

/-- V-1 and V-2. -/
theorem test_el_start :
    see (step (looping (block .starting .ptxOnly .prx 0 [] [] none) [])) (traceAnd fun t => (t.state, t.role)) = some ([.becomeTx], .transmitting, .ptx)
    ∧ see (step (looping (block .starting .prxOnly .ptx 0 [] [] none) [])) (traceAnd fun t => (t.state, t.role))
      = some ([.beginListening], .receiving, .prx) := by decide
/-- V-4 and V-5. -/
theorem test_irq :
    see (step { rx [] none with schedule := [.irq], cntIrq := 1, evt := { irq := true } }) (fun t => (t.evt, t.cntIrq)) = some ({ irq := true }, 2)
    ∧ see (step { block .starting .prxOnly .prx 0 [] [] none with schedule := [.irq] }) (fun t => (t.evt, t.cntIrq)) = some ({}, 0) := by decide
/-- V-6, the radio's "ok" being 111, 107. -/
theorem test_el_irq_order :
    sat (step (looping { tx 0 [] with evt := { irq := true } }
        [poll true true true, len 2, pay (((Vector.replicate 32 0).set 0 111).set 1 107), poll false false false]))
      (fun t => decide (t.rtrace.map RadioTxn.code = [4, 3, 5, 6, 4] ∧ t.cntSent = 1 ∧ t.cntMaxRt = 1 ∧ t.cntRx = 1
        ∧ t.reuse = true ∧ t.rxq = [1] ∧ t.packet 1 = [111, 107])) = true := by decide
/-- V-9. -/
theorem test_el_retry_exhausted :
    see (step (looping { tx 0 [] with evt := { irq := true }, reuse := true } [poll false true false]))
      (fun t => (t.rtrace.map RadioTxn.code, t.cntMaxRt, t.reuse, t.state)) = some ([4], 1, false, .transmitting) := by decide
/-- V-10. -/
theorem test_el_rx_full :
    see (step (looping { rx [1, 2] none with evt := { irq := true } }
        [poll false false true, len 5, pay (Vector.replicate 32 104), poll false false true]))
      (fun t => (t.rtrace.map RadioTxn.code, t.rxq, t.rxdef, t.cntRx, t.lenAt 3)) = some ([4, 5, 6, 4], [1, 2, 3], true, 1, 5) := by decide
/-- V-12 and V-13. -/
theorem test_el_bad_length :
    see (step (looping { rx [] none with evt := { irq := true } } [poll false false true, len 0]))
      (fun t => (t.rtrace.map RadioTxn.code, t.rxq, t.freeCount, t.cntRx)) = some ([4, 5], [], 9, 1)
    ∧ see (step (looping { rx [] none with evt := { irq := true } } [poll false false true, len 33]))
      (fun t => (t.rtrace.map RadioTxn.code, t.rxq, t.freeCount, t.cntRx)) = some ([4, 5], [], 9, 1) := by decide
/-- V-14: no length is asked where `DYNPD` is false. -/
theorem test_el_fixed_length :
    see (step (looping { rx [] none with
        cfg := { Config.standard with dynpd := false, payloadSize := 8 }, evt := { irq := true } }
        [poll false false true, pay (Vector.replicate 32 7), poll false false false]))
      (fun t => (t.rtrace.map RadioTxn.code, t.rxq, t.packet 1, t.rxdef)) = some ([4, 6, 4], [1], [7, 7, 7, 7, 7, 7, 7, 7], false) := by decide
/-- V-11: a fetch resumes a deferred fill. -/
theorem test_el_fetch_refill :
    see (step (looping { rx [2, 3] (some 1) with evt := { fetch := true }, rxdef := true }
        [poll false false true, len 1, pay (Vector.replicate 32 33), poll false false false]))
      (fun t => (t.rtrace.map RadioTxn.code, t.rxq, t.packet 4, t.rxdef, t.cntRx)) = some ([4, 5, 6, 4], [2, 3, 4], [33], false, 0) := by decide
/-- The example of 44 R212: the drain goes on after an accepted packet; here a second one meets a full buffer. -/
theorem test_el_drain_goes_on :
    see (step (looping { tx 0 [1, 2] with evt := { txp := true }, data := [(32, 1), (33, 2), (34, 3), (35, 4)] }
        [flag false, flag true, flag true]))
      (traceAnd fun t => (t.txq, t.ownerAt 1, t.evt)) = some ([.txFull false, .send [1, 2, 3, 4] 4 true true, .txFull true], [2], .free, {}) := by
  decide
/-- The first event-loop step of program 4: switch to transmit, drain, and a turnaround that finds the buffer not empty. -/
theorem test_el_adhoc_switch :
    see (step (looping { block .receiving .adhoc .prx 0 [1] [] none with
        evt := { txp := true }, data := [(32, 1), (33, 2), (34, 3), (35, 4)] } [flag false, flag true, flag false]))
      (fun t => (t.rtrace.map RadioTxn.code, t.state, t.role, t.txq)) = some ([1, 9, 2, 8], .transmitting, .ptx, []) := by decide
/-- The third event-loop step of program 5: the second exhaustion falls back, and no packet is sent. -/
theorem test_el_fall_back :
    see (step (looping { block .transmitting .adhoc .ptx 0 [1] [] none with evt := { irq := true }, reuse := true } [poll false true false]))
      (fun t => (t.rtrace.map RadioTxn.code, t.state, t.role, t.evt, t.cntMaxRt)) = some ([4, 0], .receiving, .prx, { txp := true }, 1) := by
  decide
/-- V-15, with `LEN[1] = 4` and the bytes 1, 2, 3, 4 in slot 1. -/
theorem test_el_send_lost :
    see (step (looping { tx 0 [1, 2] with evt := { txp := true }, data := [(32, 1), (33, 2), (34, 3), (35, 4)] } [flag false, flag false]))
      (traceAnd fun t => (t.txq, t.ownerAt 1)) = some ([.txFull false, .send [1, 2, 3, 4] 4 true false], [2], .free) := by decide
/-- V-16, with `LEN[1] = 4`. -/
theorem test_el_ack_payload :
    see (step (looping { block .receiving .prxOnly .prx 0 [1] [] none with
        evt := { txp := true }, data := [(32, 1), (33, 2), (34, 3), (35, 4)] } [flag false]))
      (traceAnd fun t => (t.txq, t.ownerAt 1)) = some ([.txFull false, .ackPayload 0 [1, 2, 3, 4] 4], [], .free) := by decide
/-- The first EL_STOP of program 7: a stop drain of ADHOC that was listening becomes the transmitter and sends. -/
theorem test_el_stop_drains :
    see (step (looping { block .stopping .adhoc .prx 0 [1] [] none with
        evt := { stop := true, txp := true }, data := [(32, 1), (33, 2), (34, 3), (35, 4)] } [flag false, flag true, flag false]))
      (fun t => (t.rtrace.map RadioTxn.code, t.state, t.role, t.txq, t.stopPolls)) = some ([1, 9, 2, 8], .stopping, .ptx, [], 1) := by decide
/-- V-18. -/
theorem test_el_stop_limit :
    see (step (looping { block .stopping .ptxOnly .ptx 0 [] [] none with evt := { stop := true }, stopPolls := 3 } [flag false]))
      (traceAnd fun t => (t.state, t.stopPolls, t.fill, t.freeCount)) = some ([.txEmpty false], .stopped, 0, none, 10) := by decide

/-! ## Witnesses: states and operands that meet the hypotheses of each obligation -/

/-- A consistent block in STOPPING with nothing queued. -/
def stopping (polls : Nat) (txq : List Nat) : State :=
  { block .stopping .ptxOnly .ptx 0 txq [] none with evt := { stop := true }, stopPolls := polls }

/-- A consistent ADHOC block, receiving, with the transmit signal raised. -/
def adhoc (txq : List Nat) : State := { block .receiving .adhoc .prx 0 txq [] none with evt := { txp := true } }

theorem witness_DecodeOfEncode :
    (Instr.write 0xFFFFFF).wellFormed = true ∧ (Instr.start 2).wellFormed = true ∧ (Instr.status 5).wellFormed = true := by decide
theorem witness_EncodeOfDecode : decode 0xB0000005 = .ok (.status 5) := by decide
/-- The highest legal and the lowest illegal operand of each kind (30 R83). -/
theorem witness_IllegalWordsExactly :
    decode 0x100000FF = .ok (.put 255) ∧ decode 0x10000100 = .illegal .operand
    ∧ decode 0x70000002 = .ok (.start 2) ∧ decode 0x70000003 = .illegal .operand
    ∧ decode 0xA0000003 = .ok (.stats 3) ∧ decode 0xA0000004 = .illegal .operand
    ∧ decode 0xB0000005 = .ok (.status 5) ∧ decode 0xB0000006 = .illegal .operand
    ∧ decode 0xBFFFFFFF = .illegal .reserved ∧ decode 0xC0000000 = .illegal .opcode := by decide

theorem witness_StepRunsDecodedCommand : ∃ (s : State) (p : Nat) (i : Instr), s.cfg.wellFormed = true ∧ s.nextEvent = .port p
    ∧ p < s.cfg.nport ∧ (s.port p).busy = true ∧ decode (s.port p).cmd = .ok i :=
  ⟨holding (tx 0 []) 0x10000041, 0, .put 65, by decide⟩
theorem witness_StepTakesChosenAgent : ∃ (s : State) (e : Event) (rest : List Event), s.cfg.wellFormed = true ∧ s.schedule = e :: rest :=
  ⟨looping (tx 0 []) [], .el, [], by decide⟩
theorem witness_IllegalWordAnswered : ∃ (s : State) (p : Nat) (r : Reject), p < s.cfg.nport ∧ (s.port p).busy = true
    ∧ decode (s.port p).cmd = .illegal r :=
  ⟨holding (tx 0 []) 0x70000003, 0, .operand, by decide⟩
/-- Each bound is broken by a state that breaks no other. -/
theorem witness_IllFormedConfigRefused :
    (∃ s : State, s.cfg.slots < s.cfg.qtx + s.cfg.qrx + 2) ∧ (∃ s : State, s.cfg.qtx < 1) ∧ (∃ s : State, s.cfg.qrx < 1)
    ∧ (∃ s : State, 2 ^ 26 ≤ s.cfg.qrx) ∧ (∃ s : State, s.cfg.nport < 1) ∧ (∃ s : State, s.cfg.payloadSize < 1)
    ∧ (∃ s : State, 32 < s.cfg.payloadSize) ∧ (∃ s : State, 6 ≤ s.cfg.ackPipe) :=
  ⟨⟨State.powerOn { Config.standard with slots := 7 }, by decide⟩, ⟨State.powerOn { Config.standard with qtx := 0 }, by decide⟩,
    ⟨State.powerOn { Config.standard with qrx := 0 }, by decide⟩,
    ⟨{ State.reset with cfg := { Config.standard with qrx := 67108864, slots := 67108869 } }, by decide⟩,
    ⟨State.powerOn { Config.standard with nport := 0 }, by decide⟩,
    ⟨State.powerOn { Config.standard with payloadSize := 0 }, by decide⟩,
    ⟨State.powerOn { Config.standard with payloadSize := 33 }, by decide⟩,
    ⟨State.powerOn { Config.standard with ackPipe := 6 }, by decide⟩⟩
/-- A busy port; an idle port with the command's payload; an idle port with another. -/
theorem witness_HostPlacesCommand :
    (∃ s : State, 0 < s.cfg.nport ∧ (s.port 0).busy = true)
    ∧ (∃ s : State, 1 < s.cfg.nport ∧ (s.port 1).busy = false ∧ [1].length = (decode 0x20000001).payloadLength)
    ∧ (∃ s : State, 1 < s.cfg.nport ∧ (s.port 1).busy = false ∧ [1].length ≠ (decode 0x20000002).payloadLength) :=
  ⟨⟨holding (tx 0 []) 0x10000041, by decide⟩, ⟨tx 0 [], by decide⟩, ⟨tx 0 [], by decide⟩⟩

/-- An empty fill packet, and one byte before the last place. -/
theorem witness_PutAppendsByte :
    (∃ s : State, Consistent s ∧ s.cur < s.cfg.nport ∧ s.ready = true ∧ (s.port s.cur).phase = .a ∧ s.fillPos = 0)
    ∧ (∃ s : State, Consistent s ∧ s.cur < s.cfg.nport ∧ s.ready = true ∧ (s.port s.cur).phase = .a ∧ s.fillPos = 30) :=
  ⟨⟨holding (tx 0 []) 0x10000041, consistent_of (by decide), by decide⟩,
    ⟨holding (tx 30 [1, 2, 3]) 0x10000041, consistent_of (by decide), by decide⟩⟩
theorem witness_PutFlushesFullPacket : ∃ s : State, Consistent s ∧ s.cur < s.cfg.nport ∧ s.ready = true
    ∧ (s.port s.cur).phase = .a ∧ s.fillPos = 31 ∧ s.txq.length < s.cfg.qtx :=
  ⟨holding (tx 31 [1, 2]) 0x10000041, consistent_of (by decide), by decide⟩
theorem witness_PutWaitsThenFlushes :
    (∃ s : State, Consistent s ∧ s.cur < s.cfg.nport ∧ s.ready = true ∧ (s.port s.cur).phase = .a ∧ s.fillPos = 31
      ∧ s.txq.length = s.cfg.qtx)
    ∧ (∃ s : State, Consistent s ∧ s.cur < s.cfg.nport ∧ s.ready = true ∧ (s.port s.cur).phase = .b ∧ s.fillPos = 32
      ∧ s.txq.length < s.cfg.qtx)
    ∧ (∃ s : State, Consistent s ∧ s.cur < s.cfg.nport ∧ s.ready = true ∧ (s.port s.cur).phase = .b ∧ s.fillPos < 32) :=
  ⟨⟨holding (tx 31 [1, 2, 3]) 0x10000041, consistent_of (by decide), by decide⟩,
    ⟨holding (tx 32 [1, 2]) 0x10000041 [] .b, consistent_of (by decide), by decide⟩,
    ⟨holding (tx 31 [1, 2]) 0x10000041 [] .b, consistent_of (by decide), by decide⟩⟩

/-- The hypotheses of WriteAppendsChunk, with the chunk length `k`. -/
def WriteHypotheses (s : State) (n : BitVec 24) (k : Nat) : Prop :=
  Consistent s ∧ s.cur < s.cfg.nport ∧ s.ready = true ∧ (s.port s.cur).busy = true ∧ decode (s.port s.cur).cmd = .ok (.write n)
    ∧ (s.port s.cur).phase = .a ∧ (s.port s.cur).done < n.toNat ∧ s.fillPos < 32
    ∧ k = min (n.toNat - (s.port s.cur).done) (32 - s.fillPos)

/-- The chunk ends one byte before the packet's end; at its end with room in the queue, as the last chunk and not; at its end with the
queue full. -/
theorem witness_WriteAppendsChunk :
    (∃ s k, WriteHypotheses s 2 k ∧ s.fillPos + k = 31)
    ∧ (∃ s k, WriteHypotheses s 2 k ∧ s.fillPos + k = 32 ∧ s.txq.length < s.cfg.qtx ∧ (s.port s.cur).done + k = 2)
    ∧ (∃ s k, WriteHypotheses s 2 k ∧ s.fillPos + k = 32 ∧ s.txq.length < s.cfg.qtx ∧ (s.port s.cur).done + k = 1)
    ∧ (∃ s k, WriteHypotheses s 2 k ∧ s.fillPos + k = 32 ∧ s.txq.length = s.cfg.qtx) :=
  ⟨⟨holding (tx 29 []) 0x20000002 [1, 2], 2, ⟨consistent_of (by decide), by decide⟩, by decide⟩,
    ⟨holding (tx 30 [1, 2]) 0x20000002 [1, 2], 2, ⟨consistent_of (by decide), by decide⟩, by decide⟩,
    ⟨holding (tx 31 [1, 2]) 0x20000002 [1, 2], 1, ⟨consistent_of (by decide), by decide⟩, by decide⟩,
    ⟨holding (tx 31 [1, 2, 3]) 0x20000002 [1, 2] .a 1, 1, ⟨consistent_of (by decide), by decide⟩, by decide⟩⟩
theorem witness_WriteCompletes :
    (∃ s : State, s.ready = true ∧ (s.port s.cur).phase = .a ∧ (s.port s.cur).done = (0 : BitVec 24).toNat)
    ∧ (∃ s : State, s.ready = true ∧ (s.port s.cur).phase = .a ∧ (s.port s.cur).done = (2 : BitVec 24).toNat) :=
  ⟨⟨holding (tx 32 [1, 2, 3]) 0x20000000, by decide⟩, ⟨holding (tx 0 []) 0x20000002 [1, 2] .a 2, by decide⟩⟩
theorem witness_WriteResumesAfterWait :
    (∃ s : State, Consistent s ∧ s.cur < s.cfg.nport ∧ s.ready = true ∧ (s.port s.cur).phase = .b ∧ s.fillPos = 31
      ∧ (s.port s.cur).done ≠ (2 : BitVec 24).toNat)
    ∧ (∃ s : State, Consistent s ∧ s.cur < s.cfg.nport ∧ s.ready = true ∧ (s.port s.cur).phase = .b ∧ s.fillPos = 32
      ∧ s.txq.length < s.cfg.qtx ∧ (s.port s.cur).done = (2 : BitVec 24).toNat) :=
  ⟨⟨holding (tx 31 [1, 2, 3]) 0x20000002 [1, 2] .b 1, consistent_of (by decide), by decide⟩,
    ⟨holding (tx 32 [1, 2]) 0x20000002 [1, 2] .b 2, consistent_of (by decide), by decide⟩⟩
theorem witness_FlushEnqueuesFillPacket :
    (∃ s : State, s.cur < s.ports.length ∧ s.ready = true ∧ s.fillPos = 0)
    ∧ (∃ s : State, s.cur < s.ports.length ∧ s.ready = true ∧ Consistent s ∧ s.fillPos = 1 ∧ s.txq.length < s.cfg.qtx) :=
  ⟨⟨holding (tx 0 []) 0x30000000, by decide⟩, ⟨holding (tx 1 [1, 2]) 0x30000000, by decide, by decide, consistent_of (by decide), by decide⟩⟩

theorem witness_GetReturnsOldestByte :
    (∃ s : State, Consistent s ∧ s.cur < s.cfg.nport ∧ s.ready = true ∧ s.drain ≠ none ∧ s.rxq = [])
    ∧ (∃ s : State, Consistent s ∧ s.cur < s.cfg.nport ∧ s.ready = true ∧ s.drain = none ∧ s.rxq ≠ []) :=
  ⟨⟨holding { rx [] (some 2) with drainPos := 3 } 0x40000000, consistent_of (by decide), by decide⟩,
    ⟨holding (rx [2] none) 0x40000000, consistent_of (by decide), by decide⟩⟩
theorem witness_ReadTakesUnreadPrefix :
    (∃ s : State, Consistent s ∧ s.cur < s.cfg.nport ∧ s.ready = true ∧ s.drain = none ∧ s.rxq = [])
    ∧ (∃ s : State, Consistent s ∧ s.cur < s.cfg.nport ∧ s.ready = true ∧ s.drain ≠ none)
    ∧ (∃ s : State, Consistent s ∧ s.cur < s.cfg.nport ∧ s.ready = true ∧ s.drain = none ∧ s.rxq ≠ []) :=
  ⟨⟨holding (rx [] none) 0x50000000, consistent_of (by decide), by decide⟩,
    ⟨holding { rx [5] (some 2) with drainPos := 2 } 0x50000010, consistent_of (by decide), by decide⟩,
    ⟨holding (rx [5, 2] none) 0x50000010, consistent_of (by decide), by decide⟩⟩
theorem witness_AvailCountsUnreadBytes : ∃ s : State, Consistent s ∧ s.ready = true ∧ s.drain ≠ none ∧ s.rxq ≠ [] :=
  ⟨holding { rx [5] (some 2) with drainPos := 2 } 0x60000000, consistent_of (by decide), by decide⟩

theorem witness_HeldCommandWaits :
    (∃ s : State, s.ready = true ∧ 32 ≤ s.fillPos ∧ (s.port s.cur).phase = .a ∧ (s.port s.cur).done ≠ (2 : BitVec 24).toNat)
    ∧ (∃ s : State, s.ready = true ∧ 32 ≤ s.fillPos ∧ (s.port s.cur).phase = .b ∧ s.cfg.qtx ≤ s.txq.length)
    ∧ (∃ s : State, s.ready = true ∧ 0 < s.fillPos ∧ s.cfg.qtx ≤ s.txq.length)
    ∧ (∃ s : State, s.ready = true ∧ s.drain = none ∧ s.rxq = [] ∧ (1 : BitVec 24) ≠ 0) :=
  ⟨⟨holding (tx 32 [1, 2, 3]) 0x20000002 [1, 2], by decide⟩, ⟨holding (tx 32 [1, 2, 3]) 0x20000002 [1, 2] .b 2, by decide⟩,
    ⟨holding (tx 1 [1, 2, 3]) 0x30000000, by decide⟩, ⟨holding (rx [] none) 0x50000001, by decide⟩⟩
/-- Each state in which a byte-stream command, a START, a STOP, a RESET is refused. -/
theorem witness_RefusedCommandsChangeNothing :
    (∃ s : State, s.ready = false ∧ s.state = .stopped) ∧ (∃ s : State, s.ready = false ∧ s.state ≠ .stopped)
    ∧ (∃ s : State, s.state ≠ .receiving ∧ s.state ≠ .transmitting) ∧ (∃ s : State, s.state ≠ .error) :=
  ⟨⟨State.reset, by decide⟩, ⟨stopping 0 [], by decide⟩, ⟨State.reset, by decide⟩, ⟨State.reset, by decide⟩⟩

theorem witness_StartLeavesStopped :
    (∃ s : State, s.cfg.wellFormed = true ∧ s.cur < s.ports.length ∧ s.state = .stopped)
    ∧ (∃ s : State, s.cfg.wellFormed = true ∧ s.cur < s.ports.length ∧ s.state ≠ .stopped) :=
  ⟨⟨holding State.reset 0x70000000, by decide⟩, ⟨holding (stopping 0 []) 0x70000000, by decide⟩⟩
/-- Another port holds a byte-stream command, or none. -/
theorem witness_StopReleasesCallers :
    (∃ s : State, s.cur < s.ports.length ∧ s.ready = true ∧ (s.port 1).busy = true ∧ (decode (s.port 1).cmd).byteStream = true)
    ∧ (∃ s : State, s.cur < s.ports.length ∧ s.ready = true ∧ (s.port 1).busy = false) :=
  ⟨⟨holding (holding1 (rx [] none) 0x40000000) 0x80000000, by decide⟩, ⟨holding (tx 0 []) 0x80000000, by decide⟩⟩
theorem witness_ResetLeavesError :
    (∃ s : State, s.cur < s.ports.length ∧ s.state = .error) ∧ (∃ s : State, s.cur < s.ports.length ∧ s.state ≠ .error) :=
  ⟨⟨holding { tx 0 [1] with state := .error, errCause := some .queueOverflow } 0x90000000, by decide⟩,
    ⟨holding (tx 0 [1]) 0x90000000, by decide⟩⟩
/-- With a drain packet and without one, at the highest legal selector. -/
theorem witness_StatusReadsControlState :
    (∃ s : State, s.cur < s.ports.length ∧ (5 : BitVec 3).toNat ≤ 5 ∧ s.freeCount < 2 ^ 32 ∧ s.txq.length < 2 ^ 32
      ∧ s.rxq.length < 2 ^ 32 ∧ s.fillPos < 2 ^ 32 ∧ s.drainRemainder < 2 ^ 32 ∧ s.drain = some 2)
    ∧ (∃ s : State, s.cur < s.ports.length ∧ s.freeCount < 2 ^ 32 ∧ s.txq.length < 2 ^ 32
      ∧ s.rxq.length < 2 ^ 32 ∧ s.fillPos < 2 ^ 32 ∧ s.drainRemainder < 2 ^ 32 ∧ s.drain = none) :=
  ⟨⟨holding { rx [5] (some 2) with drainPos := 2 } 0xB0000005, by decide⟩, ⟨holding (tx 7 []) 0xB0000004, by decide⟩⟩

theorem witness_ErrorFailsFast : ∃ s : State, s.state = .error ∧ 0 < s.cfg.nport ∧ (s.port 0).busy = true
    ∧ decode (s.port 0).cmd = .illegal .opcode :=
  ⟨holding { tx 0 [] with state := .error, errCause := some .doubleFree } 0, by decide⟩
/-- In a step of a port, with another port to release, and in a step of the event loop. -/
theorem witness_ErrorEntry :
    (∃ s : State, (∀ p ∈ some 0, p < s.ports.length) ∧ (s.port 1).busy = true ∧ (decode (s.port 1).cmd).byteStream = true)
    ∧ (∃ s : State, ∀ p ∈ (none : Option Nat), p < s.ports.length) :=
  ⟨⟨holding (holding1 (tx 5 []) 0x40000000) 0x30000000, by decide⟩, ⟨tx 5 [], by decide⟩⟩
theorem witness_FlushOnEmptyPoolIsFatal : ∃ (s : State) (h : Nat), s.cur < s.ports.length ∧ s.ready = true ∧ 0 < s.fillPos
    ∧ s.txq.length < s.cfg.qtx ∧ s.fill = some h ∧ h < s.cfg.slots ∧ s.freeCount = 0 ∧ (decode (s.port s.cur).cmd).isWrite = false :=
  ⟨holding { tx 5 [] with owner := .fill :: List.replicate 9 .txq } 0x30000000, 0, by decide⟩
/-- An empty pool, a pool with a free slot, and the handles at the pool's end. -/
theorem witness_PoolAllocAndFree :
    (∃ s : State, s.owner.length = s.cfg.slots ∧ s.freeCount = 0 ∧ s.cfg.slots = 10)
    ∧ (∃ s : State, s.owner.length = s.cfg.slots ∧ s.freeCount ≠ 0 ∧ s.ownerAt 9 = .free ∧ s.ownerAt 0 = .fill) :=
  ⟨⟨{ tx 0 [] with owner := .fill :: List.replicate 9 .txq }, by decide⟩, ⟨tx 0 [], by decide⟩⟩

theorem witness_ElStartTakesRole :
    (∃ s : State, s.state = .starting ∧ s.mode = .ptxOnly) ∧ (∃ s : State, s.state = .starting ∧ s.mode = .adhoc) :=
  ⟨⟨block .starting .ptxOnly .prx 0 [] [] none, by decide⟩, ⟨block .starting .adhoc .prx 0 [] [] none, by decide⟩⟩
theorem witness_LoopWaitsForSignal :
    (∃ s : State, s.state = .stopped) ∧ (∃ s : State, s.state = .error)
    ∧ (∃ s : State, s.ready = true ∧ s.evt.irq = false ∧ s.evt.txp = false ∧ s.evt.fetch = false) :=
  ⟨⟨State.reset, by decide⟩, ⟨{ tx 0 [] with state := .error }, by decide⟩, ⟨tx 0 [], by decide⟩⟩
/-- A step with a pending interrupt in which each flag is set, one in ADHOC that falls back, and one without a pending interrupt. -/
theorem witness_LoopCountsHandledFlags :
    (∃ s t : State, s.ready = true ∧ s.evt.irq = true ∧ s.answer.status.dataSent = true ∧ s.answer.status.maxRetriesExceeded = true
      ∧ s.answer.status.dataReceived = true ∧ takeEvent .el s = .next t)
    ∧ (∃ s t : State, s.ready = true ∧ s.evt.irq = true ∧ s.answer.status.maxRetriesExceeded = true ∧ s.reuse = true
      ∧ s.state = .transmitting ∧ s.mode = .adhoc ∧ takeEvent .el s = .next t ∧ t.state = .receiving)
    ∧ (∃ s t : State, s.ready = true ∧ s.evt.irq = false ∧ s.evt.txp = true ∧ takeEvent .el s = .next t) :=
  ⟨⟨{ tx 0 [] with evt := { irq := true }, reuse := true, answers := [poll true true true, len 0] }, _, by decide, by decide, by decide,
      by decide, by decide, next_after (by decide)⟩,
    ⟨{ block .transmitting .adhoc .ptx 0 [1] [] none with evt := { irq := true }, reuse := true, answers := [poll false true false] }, _,
      by decide, by decide, by decide, by decide, by decide, by decide, next_after (by decide), by decide⟩,
    ⟨{ tx 0 [] with evt := { txp := true } }, _, by decide, by decide, by decide, next_after (by decide)⟩⟩
/-- An iteration for an interrupt, for a fetch that resumes a fill, and one in ADHOC that switches; and a handled interrupt that falls
back. -/
theorem witness_RetryAndDirectionSwitches :
    (∃ s : State, s.ready = true ∧ s.evt.pending = true ∧ s.evt.irq = true)
    ∧ (∃ s : State, s.ready = true ∧ s.evt.pending = true ∧ s.evt.fetch = true ∧ s.rxdef = true)
    ∧ (∃ s : State, s.ready = true ∧ s.evt.pending = true ∧ s.mode = .adhoc ∧ s.state = .receiving ∧ s.txq ≠ [])
    ∧ (∃ s u v : State, s.answer.status.maxRetriesExceeded = true ∧ s.state = .transmitting
      ∧ u = { s.drawn with
        rtrace := s.rtrace ++ [.poll true s.answer.status]
        cntSent := s.cntSent + (if s.answer.status.dataSent then 1 else 0), reuse := s.reuse && !s.answer.status.dataSent
        cntMaxRt := s.cntMaxRt + (if s.answer.status.maxRetriesExceeded then 1 else 0) }
      ∧ (true, v) = retry u) :=
  ⟨⟨{ tx 0 [] with evt := { irq := true } }, by decide⟩, ⟨{ rx [2, 3] (some 1) with evt := { fetch := true }, rxdef := true }, by decide⟩,
    ⟨adhoc [1], by decide⟩,
    ⟨{ block .transmitting .adhoc .ptx 0 [1] [] none with evt := { irq := true }, reuse := true, answers := [poll false true false] }, _, _,
      by decide, by decide, rfl, rfl⟩⟩
/-- A full queue, an empty pool, the lengths 0 and 33 asked of the radio, and the fixed lengths 0 and 33. -/
theorem witness_RxFillStopsOrDefers :
    (∃ s : State, s.rxq.length = s.cfg.qrx) ∧ (∃ s : State, s.freeCount = 0)
    ∧ (∃ s : State, s.rxq.length ≠ s.cfg.qrx ∧ s.freeCount ≠ 0 ∧ s.cfg.dynpd = true ∧ s.answer.length.toNat = 0)
    ∧ (∃ s : State, s.rxq.length ≠ s.cfg.qrx ∧ s.freeCount ≠ 0 ∧ s.cfg.dynpd = true ∧ s.answer.length.toNat = 33)
    ∧ (∃ s : State, s.rxq.length ≠ s.cfg.qrx ∧ s.freeCount ≠ 0 ∧ s.cfg.dynpd = false ∧ s.cfg.payloadSize = 0)
    ∧ (∃ s : State, s.rxq.length ≠ s.cfg.qrx ∧ s.freeCount ≠ 0 ∧ s.cfg.dynpd = false ∧ s.cfg.payloadSize = 33) :=
  ⟨⟨rx [1, 2, 3] none, by decide⟩, ⟨{ rx [] none with owner := [] }, by decide⟩,
    ⟨{ rx [] none with answers := [len 0] }, by decide⟩, ⟨{ rx [] none with answers := [len 33] }, by decide⟩,
    ⟨{ rx [] none with cfg := { Config.standard with dynpd := false, payloadSize := 0 } }, by decide⟩,
    ⟨{ rx [] none with cfg := { Config.standard with dynpd := false, payloadSize := 33 } }, by decide⟩⟩
/-- A block that reads packets of a fixed length. -/
def fixedLength (n : Nat) (rxq : List Nat) : State :=
  { rx rxq none with cfg := { Config.standard with dynpd := false, payloadSize := n } }

/-- The shortest and the longest packet, with the length asked of the radio and with a fixed length; more data after it and none. -/
theorem witness_RxFillLoadsPacket :
    (∃ (s : State) (a b c : RadioAnswer), Consistent s ∧ s.rxq.length < s.cfg.qrx ∧ s.cfg.dynpd = true ∧ s.answers = [a, b, c]
      ∧ a.length.toNat = 1 ∧ c.status.dataReceived = false)
    ∧ (∃ (s : State) (a b c : RadioAnswer), Consistent s ∧ s.rxq.length < s.cfg.qrx ∧ s.cfg.dynpd = true ∧ s.answers = [a, b, c]
      ∧ a.length.toNat = 32 ∧ c.status.dataReceived = true)
    ∧ (∃ (s : State) (b c : RadioAnswer), Consistent s ∧ s.rxq.length < s.cfg.qrx ∧ s.cfg.dynpd = false ∧ s.answers = [b, c]
      ∧ s.cfg.payloadSize = 1 ∧ c.status.dataReceived = false)
    ∧ (∃ (s : State) (b c : RadioAnswer), Consistent s ∧ s.rxq.length < s.cfg.qrx ∧ s.cfg.dynpd = false ∧ s.answers = [b, c]
      ∧ s.cfg.payloadSize = 32 ∧ c.status.dataReceived = true) :=
  ⟨⟨{ rx [1, 2] none with answers := [len 1, {}, {}] }, len 1, {}, {}, consistent_of (by decide), by decide⟩,
    ⟨{ rx [] none with answers := [len 32, {}, poll false false true] }, len 32, {}, poll false false true, consistent_of (by decide),
      by decide⟩,
    ⟨{ fixedLength 1 [1, 2] with answers := [{}, {}] }, {}, {}, consistent_of (by decide), by decide⟩,
    ⟨{ fixedLength 32 [] with answers := [{}, poll false false true] }, {}, poll false false true, consistent_of (by decide), by decide⟩⟩
/-- Each clause of TxDrainHandsOffHead. -/
theorem witness_TxDrainHandsOffHead :
    (∃ s : State, s.txq = []) ∧ (∃ s : State, s.role = .prx ∧ s.mode ≠ .prxOnly ∧ s.txq = [1])
    ∧ (∃ s : State, Consistent s ∧ s.txq = [1] ∧ s.role = .ptx ∧ s.answer.flag = true)
    ∧ (∃ s : State, Consistent s ∧ s.txq = [1] ∧ s.role = .prx ∧ s.mode = .prxOnly ∧ s.answer.flag = true)
    ∧ (∃ s : State, Consistent s ∧ s.txq = [1] ∧ s.role = .ptx ∧ s.answer.flag = false ∧ s.drawn.answer.flag = false)
    ∧ (∃ s : State, Consistent s ∧ s.txq = [1, 2] ∧ s.role = .ptx ∧ s.answer.flag = false ∧ s.drawn.answer.flag = true)
    ∧ (∃ s : State, Consistent s ∧ s.txq = [1, 2] ∧ s.role = .prx ∧ s.mode = .prxOnly ∧ s.answer.flag = false) :=
  ⟨⟨tx 0 [], by decide⟩, ⟨adhoc [1], by decide⟩,
    ⟨{ tx 0 [1] with answers := [flag true] }, consistent_of (by decide), by decide⟩,
    ⟨{ block .receiving .prxOnly .prx 0 [1] [] none with answers := [flag true] }, consistent_of (by decide), by decide⟩,
    ⟨{ tx 0 [1] with answers := [flag false, flag false] }, consistent_of (by decide), by decide⟩,
    ⟨{ tx 0 [1, 2] with answers := [flag false, flag true] }, consistent_of (by decide), by decide⟩,
    ⟨{ block .receiving .prxOnly .prx 0 [1, 2] [] none with answers := [flag false] }, consistent_of (by decide), by decide⟩⟩

/-- The step ends receiving, and transmitting with the radio's buffer not empty. -/
theorem witness_AdhocTurnsAround :
    (∃ s t : State, s.ready = true ∧ s.mode = .adhoc ∧ s.evt.pending = true ∧ takeEvent .el s = .next t ∧ t.txq = []
      ∧ t.state = .receiving)
    ∧ (∃ s t : State, s.ready = true ∧ s.mode = .adhoc ∧ s.evt.pending = true ∧ takeEvent .el s = .next t ∧ t.txq = []
      ∧ t.state = .transmitting) :=
  ⟨⟨{ adhoc [] with answers := [] }, _, by decide, by decide, by decide, next_after (by decide), by decide⟩,
    ⟨{ adhoc [1] with answers := [flag false, flag true, flag false], data := [(32, 1), (33, 2), (34, 3), (35, 4)] }, _,
      by decide, by decide, by decide, next_after (by decide), by decide⟩⟩
/-- A step that hands a packet over, in each fixed mode. -/
theorem witness_FixedRoleNeverOscillates :
    (∃ s t : State, s.ready = true ∧ s.mode = .ptxOnly ∧ s.role = .ptx ∧ takeEvent .el s = .next t ∧ t.txq = [])
    ∧ (∃ s t : State, s.ready = true ∧ s.mode = .prxOnly ∧ s.role = .prx ∧ takeEvent .el s = .next t ∧ t.txq = []) :=
  ⟨⟨{ tx 0 [1] with evt := { txp := true }, answers := [flag false, flag true], data := [(32, 1), (33, 2), (34, 3), (35, 4)] }, _,
      by decide, by decide, by decide, next_after (by decide), by decide⟩,
    ⟨{ block .receiving .prxOnly .prx 0 [1] [] none with
        evt := { txp := true }, answers := [flag false], data := [(32, 1), (33, 2), (34, 3), (35, 4)] }, _,
      by decide, by decide, by decide, next_after (by decide), by decide⟩⟩
/-- A step that hands a packet over, and one that keeps it. -/
theorem witness_TransmitByteAccounting :
    (∃ s t : State, Consistent s ∧ s.ready = true ∧ takeEvent .el s = .next t ∧ s.txq = [1] ∧ t.txq = [])
    ∧ (∃ s t : State, Consistent s ∧ s.ready = true ∧ takeEvent .el s = .next t ∧ s.txq = [1] ∧ t.txq = [1]) :=
  ⟨⟨{ tx 0 [1] with evt := { txp := true }, answers := [flag false, flag true], data := [(32, 1), (33, 2), (34, 3), (35, 4)] }, _,
      consistent_of (by decide), by decide, next_after (by decide), by decide⟩,
    ⟨{ tx 0 [1] with evt := { txp := true }, answers := [flag true] }, _, consistent_of (by decide), by decide, next_after (by decide),
      by decide⟩⟩
/-- A step that receives a packet. -/
theorem witness_ReceiveByteAccounting :
    ∃ s t : State, Consistent s ∧ s.ready = true ∧ takeEvent .el s = .next t ∧ s.rxq = [] ∧ t.rxq = [1] :=
  ⟨{ rx [] none with evt := { irq := true }, answers := [poll false false true, len 2, {}, {}] }, _, consistent_of (by decide), by decide,
    next_after (by decide), by decide⟩
/-- The outcome of an action is a normal end. -/
def endsOk (r : Res Unit) : Bool :=
  match r with
  | .ok _ _ => true
  | .fatal _ _ | .stop _ => false

/-- The state a normal end leaves. -/
def leftBy (r : Res Unit) : State :=
  match r with
  | .ok _ s => s
  | .fatal _ _ | .stop _ => State.reset

theorem ends_ok {r : Res Unit} (h : endsOk r = true) : r = .ok () (leftBy r) := by
  cases r <;> first | rfl | cases h

/-- Nothing queued: the radio reports empty, the last poll the limit allows, one poll before it. -/
theorem witness_StopDrainFinalizes :
    (∃ s : State, s.state = .stopping ∧ Consistent s ∧ s.txq = [] ∧ s.answer.flag = true)
    ∧ (∃ s : State, s.state = .stopping ∧ s.txq = [] ∧ s.answer.flag = false ∧ s.stopPolls = 3 ∧ s.cfg.stopPollLimit = some 4)
    ∧ (∃ s : State, s.state = .stopping ∧ s.txq = [] ∧ s.answer.flag = false ∧ s.stopPolls = 2 ∧ s.cfg.stopPollLimit = some 4) :=
  ⟨⟨{ stopping 0 [] with answers := [flag true] }, by decide, consistent_of (by decide), by decide⟩,
    ⟨{ stopping 3 [] with answers := [flag false] }, by decide⟩, ⟨{ stopping 2 [] with answers := [flag false] }, by decide⟩⟩
/-- Packets queued: ADHOC that was listening drains them all, and a full buffer keeps them. -/
theorem witness_StopDrainFinalizes_queued :
    (∃ s listening u : State, s.state = .stopping ∧ s.mode = .adhoc ∧ s.role = .prx ∧ s.txq = [1]
      ∧ listening = { s with rtrace := s.rtrace ++ [.becomeTx], role := .ptx } ∧ txDrain listening = .ok () u ∧ u.txq = [])
    ∧ (∃ s u : State, s.state = .stopping ∧ s.mode = .ptxOnly ∧ txDrain s = .ok () u ∧ u.txq = [1]) :=
  ⟨⟨{ block .stopping .adhoc .prx 0 [1] [] none with evt := { stop := true }, answers := [flag false, flag true] }, _, _, by decide, by decide,
      by decide, by decide, rfl, ends_ok (by decide), by decide⟩,
    ⟨{ stopping 0 [1] with answers := [flag true] }, _, by decide, by decide, ends_ok (by decide), by decide⟩⟩
theorem witness_StopEndsWithinPollLimit :
    (∃ s t : State, Consistent s ∧ s.state = .stopping ∧ s.cfg.stopPollLimit = some 4 ∧ takeEvent .el s = .next t ∧ t.state = .stopped)
    ∧ (∃ s t : State, Consistent s ∧ s.state = .stopping ∧ s.cfg.stopPollLimit = some 4 ∧ takeEvent .el s = .next t
      ∧ t.state = .stopping) :=
  ⟨⟨{ stopping 3 [1] with answers := [flag true] }, _, consistent_of (by decide), by decide, by decide, next_after (by decide), by decide⟩,
    ⟨{ stopping 2 [1] with answers := [flag true] }, _, consistent_of (by decide), by decide, by decide, next_after (by decide), by decide⟩⟩

theorem witness_OnlyLoopTouchesRadio : ∃ (e : Event) (s t : State), takeEvent e s = .next t ∧ e ≠ .el :=
  ⟨.port 0, holding (tx 0 []) 0x10000041, _, next_after (by decide), by decide⟩
/-- A step that delivers a response and one that does not. -/
theorem witness_OneResponsePerCommand :
    (∃ s t : State, step s = .next t ∧ replies 0 s = [] ∧ replies 0 t = ok 0)
    ∧ (∃ s t : State, step s = .next t ∧ replies 0 t = replies 0 s) :=
  ⟨⟨holding (tx 0 []) 0x10000041, _, next_after (by decide), by decide⟩, ⟨looping (tx 0 []) [], _, next_after (by decide), by decide⟩⟩
theorem witness_TransitionTable : ∃ s t : State, step s = .next t ∧ t.state ≠ s.state :=
  ⟨holding State.reset 0x70000000, _, next_after (by decide), by decide⟩

theorem witness_ConsistentKept : ∃ s t : State, Consistent s ∧ step s = .next t :=
  ⟨holding (tx 31 [1, 2]) 0x10000041, _, consistent_of (by decide), next_after (by decide)⟩
theorem witness_ConsistentAtPowerOn : Config.standard.wellFormed = true := by decide
theorem witness_NoFaultFromConsistent : ∃ s : State, Consistent s := ⟨tx 31 [1, 2], consistent_of (by decide)⟩
theorem witness_MemoryCanonicalKept : ∃ s t : State, Memory.wf s.data ∧ step s = .next t ∧ t.data ≠ s.data :=
  ⟨holding (tx 31 [1, 2]) 0x10000041, _, by decide, next_after (by decide), by decide⟩
theorem witness_CauseAndRoleKept : ∃ s t : State, CauseAgrees s ∧ step s = .next t ∧ t.state = .error :=
  ⟨holding { tx 5 [] with owner := .fill :: List.replicate 9 .txq } 0x30000000, _, ⟨by decide, by decide, by decide⟩,
    next_after (by decide), by decide⟩
/-- A full fill packet that a PUT in phase B waits for, and a step out of STARTING. -/
theorem witness_FullFillHeldKept :
    (∃ s t : State, Consistent s ∧ FullFillHeld s ∧ step s = .next t ∧ s.fillPos = Config.pkt ∧ t.fillPos = Config.pkt)
    ∧ (∃ s t : State, Consistent s ∧ FullFillHeld s ∧ step s = .next t ∧ s.state = .starting ∧ t.ready = true) :=
  ⟨⟨{ holding (tx 32 [1, 2, 3]) 0x10000041 [] .b with schedule := [.el] }, _, consistent_of (by decide),
      ⟨by decide, fun _ _ => ⟨_, List.mem_cons_self, by decide, by decide, .inr ⟨65, by decide⟩⟩⟩, next_after (by decide), by decide⟩,
    ⟨looping (block .starting .prxOnly .prx 0 [] [] none) [], _, consistent_of (by decide), ⟨by decide, by decide⟩,
      next_after (by decide), by decide⟩⟩
theorem witness_PoolConserved : ∃ s : State, Consistent s ∧ s.fill = some 0 ∧ s.drain = some 4 ∧ s.txq = [1, 2] ∧ s.rxq = [3] :=
  ⟨block .receiving .prxOnly .prx 0 [1, 2] [3] (some 4), consistent_of (by decide), by decide⟩

/-- A PUT, a WRITE and a FLUSH that end in a next state, and a FLUSH that faults. -/
theorem witness_TransmitCommandFrame :
    (∃ s t : State, exec (.put 65) s = .next t) ∧ (∃ s t : State, exec (.write 2) s = .next t)
    ∧ (∃ s t : State, exec .flush s = .next t) ∧ (∃ s t : State, exec .flush s = .next t ∧ t.state = .error) :=
  ⟨⟨holding (tx 31 [1, 2, 3]) 0x10000041, _, next_after (by decide)⟩, ⟨holding (tx 31 []) 0x20000002 [1, 2], _, next_after (by decide)⟩,
    ⟨holding (tx 1 []) 0x30000000, _, next_after (by decide)⟩,
    ⟨holding { tx 5 [] with owner := .fill :: List.replicate 9 .txq } 0x30000000, _, next_after (by decide), by decide⟩⟩
/-- A GET and a READ that end normally, and one of each that faults. -/
theorem witness_ReceiveCommandFrame :
    (∃ s t : State, exec .get s = .next t ∧ t.ports ≠ s.ports) ∧ (∃ s t : State, exec (.read 6) s = .next t ∧ t.rxq ≠ s.rxq)
    ∧ (∃ s : State, s.ready = true ∧ s.drain = some 2 ∧ 2 < s.cfg.slots ∧ s.ownerAt 2 = .free ∧ s.lenAt 2 ≤ 32
      ∧ s.drainPos + 1 = s.lenAt 2)
    ∧ (∃ s : State, s.ready = true ∧ s.drain = some 2 ∧ 2 < s.cfg.slots ∧ s.ownerAt 2 = .free ∧ s.lenAt 2 ≤ 32
      ∧ s.drainPos < s.lenAt 2 ∧ s.lenAt 2 - s.drainPos = (2 : BitVec 24).toNat) :=
  ⟨⟨holding (rx [2] none) 0x40000000, _, next_after (by decide), by decide⟩,
    ⟨holding (rx [5] (some 2)) 0x50000006, _, next_after (by decide), by decide⟩,
    ⟨{ rx [] (some 2) with drainPos := 3, owner := List.replicate 10 .free }, by decide⟩,
    ⟨{ rx [] (some 2) with drainPos := 2, owner := List.replicate 10 .free }, by decide⟩⟩
theorem witness_ObserveCommandFrame :
    (∃ s t : State, exec .avail s = .next t) ∧ (∃ s t : State, exec (.stats 3) s = .next t) ∧ (∃ s t : State, exec (.status 5) s = .next t) :=
  ⟨⟨rx [5] none, _, rfl⟩, ⟨rx [5] none, _, rfl⟩, ⟨rx [5] none, _, rfl⟩⟩
theorem witness_LifecycleCommandFrame :
    (∃ s t : State, s.cfg.wellFormed = true ∧ exec (.start 2) s = .next t ∧ t.state = .starting)
    ∧ (∃ s t : State, s.cfg.wellFormed = true ∧ exec .stop s = .next t ∧ t.state = .stopping)
    ∧ (∃ s t : State, s.cfg.wellFormed = true ∧ exec .reset s = .next t ∧ s.state = .error) :=
  ⟨⟨State.reset, _, by decide, next_after (by decide), by decide⟩, ⟨tx 0 [], _, by decide, next_after (by decide), by decide⟩,
    ⟨{ tx 0 [1] with state := .error }, _, by decide, next_after (by decide), by decide⟩⟩

end Sys2Proof.Tests
end

section
/-! The scope of spec 00: which agent steps (R9), what a PORT or HOST step runs (R10), which configurations are refused (R7), and
when a byte-stream command is held (R10). -/

namespace Sys2Proof

/-- The bounds of 00 R7, one by one. -/
theorem Config.wellFormed_iff (c : Config) :
    c.wellFormed = true ↔
      c.qtx + c.qrx + 2 ≤ c.slots ∧ 1 ≤ c.qtx ∧ 1 ≤ c.qrx ∧ c.qrx < 2 ^ 26 ∧ 1 ≤ c.nport ∧ 1 ≤ c.payloadSize
        ∧ c.payloadSize ≤ 32 ∧ c.ackPipe < 6 ∧ ∀ l, c.stopPollLimit = some l → 1 ≤ l := by
  unfold Config.wellFormed
  cases c.stopPollLimit <;> simp [and_assoc]

namespace Machine

section

variable {s : State}

/-! ### The arbiter's choice (00 R9) -/

theorem step_of_wellFormed (hc : s.cfg.wellFormed = true) : step s = takeEvent s.nextEvent s.chosen := if_pos hc

theorem step_of_not_wellFormed (hc : ¬ s.cfg.wellFormed = true) : step s = .refused .illFormedConfig := if_neg hc

theorem nextEvent_of_schedule {e : Event} {rest : List Event} (hs : s.schedule = e :: rest) : s.nextEvent = e := by
  simp [State.nextEvent, hs]

theorem chosen_of_schedule {e : Event} {rest : List Event} (hs : s.schedule = e :: rest) :
    s.chosen = { s with schedule := rest } := by
  simp [State.chosen, hs]

@[simp] theorem port_chosen (s : State) (p : Nat) : s.chosen.port p = s.port p := by
  simp [State.port]

/-! ### The steps of a port and of its host (00 R10, 10 R36) -/

theorem portStep_of_decode_ok {p : Nat} {i : Instr} (hp : p < s.cfg.nport) (hb : (s.port p).busy = true)
    (hd : decode (s.port p).cmd = .ok i) : portStep p s = exec i { s with cur := p } := by
  simp [portStep, hp, hb, hd]

theorem hostStep_of_busy {p : Nat} {w : Word} {payload : List Byte} (hb : (s.port p).busy = true) :
    hostStep p w payload s = .next s := by
  simp [hostStep, hb]

theorem hostStep_of_idle {p : Nat} {w : Word} {payload : List Byte} (hp : p < s.cfg.nport) (hb : (s.port p).busy = false) :
    hostStep p w payload s =
      if payload.length = (decode w).payloadLength then .next (s.withPort p ⟨true, w, payload, .a, 0, (s.port p).replies⟩)
      else .refused .payloadLength :=
  if_pos ⟨hp, hb⟩

/-! ### When a byte-stream command is held (00 R10) -/

theorem putGuard_eq_false_iff :
    s.putGuard = false ↔
      s.ready = true ∧ 32 ≤ s.fillPos ∧ ((s.port s.cur).phase = .a ∨ s.cfg.qtx ≤ s.txq.length) := by
  unfold State.putGuard
  cases (s.port s.cur).phase <;> simp [and_assoc]

theorem writeGuard_eq_false_iff {n : Nat} :
    s.writeGuard n = false ↔
      s.ready = true ∧ 32 ≤ s.fillPos
        ∧ (((s.port s.cur).phase = .a ∧ (s.port s.cur).done ≠ n)
          ∨ ((s.port s.cur).phase = .b ∧ s.cfg.qtx ≤ s.txq.length)) := by
  unfold State.writeGuard
  cases (s.port s.cur).phase <;> simp [and_assoc]

theorem flushGuard_eq_false_iff :
    s.flushGuard = false ↔ s.ready = true ∧ 0 < s.fillPos ∧ s.cfg.qtx ≤ s.txq.length := by
  simp [State.flushGuard, Nat.pos_iff_ne_zero, and_assoc]

theorem getGuard_eq_false_iff : s.getGuard = false ↔ s.ready = true ∧ s.drain = none ∧ s.rxq = [] := by
  simp [State.getGuard, and_assoc]

theorem readGuard_eq_false_iff {maxN : Nat} :
    s.readGuard maxN = false ↔ s.ready = true ∧ maxN ≠ 0 ∧ s.drain = none ∧ s.rxq = [] := by
  simp [State.readGuard, and_assoc]

theorem exec_put_of_held {b : BitVec 8} (hg : s.putGuard = false) : exec (.put b) s = .next s := by
  simp [exec, execPut, hg]

theorem exec_write_of_held {n : BitVec 24} (hg : s.writeGuard n.toNat = false) : exec (.write n) s = .next s := by
  simp [exec, execWrite, hg]

theorem exec_flush_of_held (hg : s.flushGuard = false) : exec .flush s = .next s := by
  simp [exec, execFlush, hg]

theorem exec_get_of_held (hg : s.getGuard = false) : exec .get s = .next s := by
  simp [exec, execGet, hg]

theorem exec_read_of_held {maxN : BitVec 24} (hg : s.readGuard maxN.toNat = false) : exec (.read maxN) s = .next s := by
  simp [exec, execRead, hg]

end

/-! ### The statements -/

/-- Settles O5: taking the choice off the script leaves the ports and the configuration alone, so the port's word decodes as before. -/
theorem stepRunsDecodedCommand : Obligations.StepRunsDecodedCommand := by
  intro s p i hc he hp hb hd
  calc step s = takeEvent (.port p) s.chosen := by rw [step_of_wellFormed hc, he]
    _ = exec i { s.chosen with cur := p } := portStep_of_decode_ok (by simpa using hp) (by simpa using hb) (by simpa using hd)

/-- Settles O6. -/
theorem stepTakesChosenAgent : Obligations.StepTakesChosenAgent := by
  intro s e rest hc hs
  rw [step_of_wellFormed hc, nextEvent_of_schedule hs, chosen_of_schedule hs]

/-- Settles O8: each listed violation contradicts one bound of a well-formed configuration. -/
theorem illFormedConfigRefused : Obligations.IllFormedConfigRefused := by
  intro s hbad
  refine step_of_not_wellFormed fun hc => ?_
  obtain ⟨hslots, hqtx, hqrx, hqrxMax, hnport, hsize, hsizeMax, hpipe, -⟩ := (Config.wellFormed_iff s.cfg).1 hc
  omega

/-- Settles O10, by whether the port is busy. -/
theorem hostPlacesCommand : Obligations.HostPlacesCommand := by
  intro s p w payload hp
  by_cases hb : (s.port p).busy = true
  · rw [if_pos hb]
    exact hostStep_of_busy hb
  · rw [if_neg hb]
    exact hostStep_of_idle hp (Bool.eq_false_of_not_eq_true hb)

/-- Settles O23: the hypotheses on each command say that its guard is false. -/
theorem heldCommandWaits : Obligations.HeldCommandWaits := by
  intro s hready
  refine ⟨fun b hfull hwait => ?put, fun n hfull hwait => ?write, fun hfill hqueue => ?flush, fun hdrain hrxq => ?get,
    fun maxN hmax hdrain hrxq => ?read⟩
  case put => exact exec_put_of_held (putGuard_eq_false_iff.2 ⟨hready, hfull, hwait⟩)
  case write => exact exec_write_of_held (writeGuard_eq_false_iff.2 ⟨hready, hfull, hwait⟩)
  case flush => exact exec_flush_of_held (flushGuard_eq_false_iff.2 ⟨hready, hfill, hqueue⟩)
  case get => exact exec_get_of_held (getGuard_eq_false_iff.2 ⟨hready, hdrain, hrxq⟩)
  case read =>
    have hpos : maxN.toNat ≠ 0 := fun h0 => hmax (BitVec.eq_of_toNat_eq h0)
    exact exec_read_of_held (readGuard_eq_false_iff.2 ⟨hready, hpos, hdrain, hrxq⟩)

end Machine

end Sys2Proof
end

section
/-! How an action of a step ends, and the tags of the slots against the references to them (10 R37). -/

namespace Sys2Proof.Machine

/-! ### How an action ends -/

/-- The action ends normally with `Q`, or ends in a fault, which only `E` allows. -/
def Res.Ends {α : Type} (E : Prop) (Q : α → State → Prop) : Res α → Prop
  | .ok a s => Q a s
  | .fatal _ _ | .stop _ => E

section

variable {α β : Type} {E : Prop} {Q : α → State → Prop} {R : β → State → Prop} {r : Res α}

@[simp] theorem ends_ok {a : α} {s : State} : (Res.ok a s).Ends E Q ↔ Q a s := Iff.rfl

theorem Res.Ends.bind {k : α → State → Res β} (hr : r.Ends E Q) (hk : ∀ a s, Q a s → (k a s).Ends E R) :
    (r.bind k).Ends E R := by
  cases r with
  | ok a s => exact hk a s hr
  | fatal c s => exact hr
  | stop f => exact hr

theorem ends_true_iff : r.Ends True Q ↔ ∀ a s, r = .ok a s → Q a s := by
  cases r <;> simp [Res.Ends]

end

/-! ### The tags and the references (10 R37) -/

/-- The slots that the registers reference with a tag. -/
def State.refs (s : State) : Owner → List Nat
  | .fill => s.fill.toList
  | .drain => s.drain.toList
  | .txq => s.txq
  | .rxq => s.rxq
  | .free | .inflight | .loading => []

/-- Each tag but FREE is the tag of exactly the slots referenced with it, each once. -/
def Tagged (s : State) : Prop :=
  ∀ tag, tag ≠ .free → (s.refs tag).Nodup ∧ ∀ h, h ∈ s.refs tag ↔ s.owner[h]? = some tag

theorem owner_eq_some_iff {s : State} (hl : s.owner.length = s.cfg.slots) {h : Nat} {tag : Owner} :
    s.owner[h]? = some tag ↔ h < s.cfg.slots ∧ s.ownerAt h = tag := by
  rw [← hl]
  by_cases hh : h < s.owner.length <;> simp [State.ownerAt, List.getD, hh]

theorem TagsAgree.tagged {s : State} (hs : TagsAgree s) (hl : s.owner.length = s.cfg.slots) : Tagged s := by
  have hmem {tag : Owner} {l : List Nat} (hslots : ∀ h ∈ l, h < s.cfg.slots)
      (htag : ∀ h < s.cfg.slots, (s.ownerAt h = tag ↔ h ∈ l)) (h : Nat) :
      h ∈ l ↔ h < s.cfg.slots ∧ s.ownerAt h = tag :=
    ⟨fun hm => ⟨hslots h hm, (htag h (hslots h hm)).2 hm⟩, fun ⟨hh, ho⟩ => (htag h hh).1 ho⟩
  intro tag htag
  simp only [owner_eq_some_iff hl]
  cases tag with
  | free => exact absurd rfl htag
  | fill => exact ⟨Option.toList_nodup _, hmem (by simpa [State.refs] using hs.fillSlot)
      (by simpa [State.refs] using hs.fill)⟩
  | drain => exact ⟨Option.toList_nodup _, hmem (by simpa [State.refs] using hs.drainSlot)
      (by simpa [State.refs] using hs.drain)⟩
  | txq => exact ⟨hs.txqOnce, hmem hs.txqSlots hs.txq⟩
  | rxq => exact ⟨hs.rxqOnce, hmem hs.rxqSlots hs.rxq⟩
  | inflight => exact ⟨List.nodup_nil, hmem nofun fun h hh => ⟨fun ho => absurd ho (hs.settled h hh).1, nofun⟩⟩
  | loading => exact ⟨List.nodup_nil, hmem nofun fun h hh => ⟨fun ho => absurd ho (hs.settled h hh).2, nofun⟩⟩

theorem Tagged.tagsAgree {s : State} (hs : Tagged s) (hl : s.owner.length = s.cfg.slots) : TagsAgree s := by
  simp only [Tagged, owner_eq_some_iff hl] at hs
  have hfill := (hs .fill (by decide)).2
  have hdrain := (hs .drain (by decide)).2
  simp only [State.refs, Option.mem_toList] at hfill hdrain
  obtain ⟨htxOnce, htx⟩ := hs .txq (by decide)
  obtain ⟨hrxOnce, hrx⟩ := hs .rxq (by decide)
  exact {
    fill := fun h hh => ⟨fun ho => (hfill h).2 ⟨hh, ho⟩, fun hf => ((hfill h).1 hf).2⟩
    drain := fun h hh => ⟨fun ho => (hdrain h).2 ⟨hh, ho⟩, fun hd => ((hdrain h).1 hd).2⟩
    txq := fun h hh => ⟨fun ho => (htx h).2 ⟨hh, ho⟩, fun hm => ((htx h).1 hm).2⟩
    rxq := fun h hh => ⟨fun ho => (hrx h).2 ⟨hh, ho⟩, fun hm => ((hrx h).1 hm).2⟩
    settled := fun h hh => ⟨fun ho => List.not_mem_nil (((hs .inflight (by decide)).2 h).2 ⟨hh, ho⟩),
      fun ho => List.not_mem_nil (((hs .loading (by decide)).2 h).2 ⟨hh, ho⟩)⟩
    fillSlot := fun h hf => ((hfill h).1 hf).1
    drainSlot := fun h hd => ((hdrain h).1 hd).1
    txqSlots := fun h hm => ((htx h).1 hm).1
    rxqSlots := fun h hm => ((hrx h).1 hm).1
    txqOnce := htxOnce
    rxqOnce := hrxOnce }

/-- A slot moves from one tag to another, and with it the one reference to it: the tags go on agreeing with the references. -/
theorem Tagged.retag {s t : State} {h : Nat} {old new : Owner} (hs : Tagged s) (howner : t.owner = s.owner.set h new)
    (hold : s.owner[h]? = some old) (hne : old ≠ new)
    (hnew : new ≠ .free → (t.refs new).Perm (h :: s.refs new))
    (hgone : old ≠ .free → (s.refs old).Perm (h :: t.refs old))
    (hrest : ∀ tag, tag ≠ old → tag ≠ new → t.refs tag = s.refs tag) : Tagged t := by
  obtain ⟨hh, -⟩ := List.getElem?_eq_some_iff.1 hold
  intro tag htag
  obtain ⟨honce, hmem⟩ := hs tag htag
  have hset (k : Nat) : t.owner[k]? = some tag ↔ if k = h then new = tag else s.owner[k]? = some tag := by
    rw [howner, List.getElem?_set]
    by_cases hk : k = h
    · simp [hk, hh]
    · simp [hk, Ne.symm hk]
  simp only [hset]
  by_cases htn : tag = new
  · subst htn
    have hfresh : h ∉ s.refs tag := fun hm => hne (Option.some.inj (hold.symm.trans ((hmem h).1 hm)))
    refine ⟨(hnew htag).nodup_iff.2 (List.nodup_cons.2 ⟨hfresh, honce⟩), fun k => ?_⟩
    rw [(hnew htag).mem_iff, List.mem_cons, hmem]
    by_cases hk : k = h <;> simp [hk]
  · by_cases hto : tag = old
    · subst hto
      obtain ⟨hgoneOnce, hleft⟩ := List.nodup_cons.1 ((hgone htag).nodup_iff.1 honce)
      refine ⟨hleft, fun k => ?_⟩
      by_cases hk : k = h
      · simp [hk, hgoneOnce, Ne.symm hne]
      · rw [if_neg hk, ← hmem, (hgone htag).mem_iff, List.mem_cons, or_iff_right hk]
    · rw [hrest tag hto htn]
      refine ⟨honce, fun k => ?_⟩
      by_cases hk : k = h
      · rw [hk, if_pos rfl, hmem, hold]
        simp [Ne.symm hto, Ne.symm htn]
      · rw [if_neg hk, hmem]

/-- With fewer references than slots one slot is free, since every other slot is referenced (40 R117). -/
theorem Tagged.exists_firstFree {s : State} (hs : Tagged s)
    (hroom : s.fill.toList.length + s.drain.toList.length + s.txq.length + s.rxq.length < s.owner.length) :
    ∃ h, s.firstFree = some h := by
  cases hf : s.firstFree with
  | some h => exact ⟨h, rfl⟩
  | none =>
    have hused : List.range s.owner.length ⊆ s.fill.toList ++ s.drain.toList ++ s.txq ++ s.rxq := by
      intro h hh
      have hlt : h < s.owner.length := List.mem_range.1 hh
      have hne : s.owner[h] ≠ .free := by
        simpa using List.findIdx?_eq_none_iff.1 hf _ (List.getElem_mem hlt)
      have hm := ((hs _ hne).2 h).2 (List.getElem?_eq_getElem hlt)
      revert hm hne
      cases s.owner[h] <;> simp +contextual [State.refs]
    have := (List.nodup_range.subperm hused).length_le
    simp only [List.length_range, List.length_append] at this
    omega

end Sys2Proof.Machine
end

section
/-! Moves of a slot between the tags, and the registers that the invariant of spec 10 reads. -/

namespace Sys2Proof.Machine

/-! ### Moves of a slot between the tags -/

section

variable {s : State} {h : Nat}

theorem Tagged.owner_fill (hs : Tagged s) (hf : s.fill = some h) : s.owner[h]? = some .fill :=
  ((hs .fill (by decide)).2 h).1 (by simp [State.refs, hf])

theorem Tagged.owner_drain (hs : Tagged s) (hd : s.drain = some h) : s.owner[h]? = some .drain :=
  ((hs .drain (by decide)).2 h).1 (by simp [State.refs, hd])

theorem Tagged.owner_txq (hs : Tagged s) (hm : h ∈ s.txq) : s.owner[h]? = some .txq := ((hs .txq (by decide)).2 h).1 hm

theorem Tagged.owner_rxq (hs : Tagged s) (hm : h ∈ s.rxq) : s.owner[h]? = some .rxq := ((hs .rxq (by decide)).2 h).1 hm

theorem owner_of_firstFree (hf : s.firstFree = some h) : s.owner[h]? = some .free := by
  obtain ⟨hh, hfree, -⟩ := firstFree_spec hf
  simpa [State.ownerAt, List.getD, hh] using hfree

theorem Tagged.free_to_fill (hs : Tagged s) (hf : s.fill = none) (hfree : s.owner[h]? = some .free) :
    Tagged { s with owner := s.owner.set h .fill, fill := some h } := by
  refine hs.retag rfl hfree (by decide) (fun _ => ?_) (by simp) (fun tag h1 h2 => ?_)
  · simp [State.refs, hf]
  · cases tag <;> simp_all [State.refs]

theorem Tagged.fill_to_txq (hs : Tagged s) (hf : s.fill = some h) :
    Tagged { s with owner := s.owner.set h .txq, txq := s.txq ++ [h], fill := none } := by
  refine hs.retag rfl (hs.owner_fill hf) (by decide) (fun _ => ?_) (fun _ => ?_) (fun tag h1 h2 => ?_)
  · exact List.perm_append_singleton h s.txq
  · simp [State.refs, hf]
  · cases tag <;> simp_all [State.refs]

theorem Tagged.rxq_to_drain {rest : List Nat} (hs : Tagged s) (hq : s.rxq = h :: rest) (hd : s.drain = none) :
    Tagged { s with owner := s.owner.set h .drain, rxq := rest, drain := some h } := by
  refine hs.retag rfl (hs.owner_rxq (by simp [hq])) (by decide) (fun _ => ?_) (fun _ => ?_) (fun tag h1 h2 => ?_)
  · simp [State.refs, hd]
  · simp [State.refs, hq]
  · cases tag <;> simp_all [State.refs]

theorem Tagged.drain_to_free (hs : Tagged s) (hd : s.drain = some h) :
    Tagged { s with owner := s.owner.set h .free, drain := none } := by
  refine hs.retag rfl (hs.owner_drain hd) (by decide) (by simp) (fun _ => ?_) (fun tag h1 h2 => ?_)
  · simp [State.refs, hd]
  · cases tag <;> simp_all [State.refs]

theorem Tagged.txq_to_free {rest : List Nat} (hs : Tagged s) (hq : s.txq = h :: rest) :
    Tagged { s with owner := s.owner.set h .free, txq := rest } := by
  refine hs.retag rfl (hs.owner_txq (by simp [hq])) (by decide) (by simp) (fun _ => ?_) (fun tag h1 h2 => ?_)
  · simp [State.refs, hq]
  · cases tag <;> simp_all [State.refs]

theorem Tagged.free_to_rxq (hs : Tagged s) (hfree : s.owner[h]? = some .free) :
    Tagged { s with owner := s.owner.set h .rxq, rxq := s.rxq ++ [h] } := by
  refine hs.retag rfl hfree (by decide) (fun _ => ?_) (by simp) (fun tag h1 h2 => ?_)
  · exact List.perm_append_singleton h s.rxq
  · cases tag <;> simp_all [State.refs]

theorem tagged_poolDestroy : Tagged s.poolDestroy := by
  intro tag htag
  have hrefs : s.poolDestroy.refs tag = [] := by cases tag <;> rfl
  simp only [hrefs, poolDestroy_owner, List.getElem?_replicate]
  exact ⟨List.nodup_nil, fun h => by split <;> simp [htag.symm]⟩

end

/-! ### The registers the invariant speaks of -/

/-- The state with every register cleared that the invariant does not read. -/
def State.block (s : State) : State :=
  { s with
    mode := .ptxOnly, evt := { stop := s.evt.stop }, reuse := false, rxdef := false, data := [], cntIrq := 0, cntSent := 0
    cntMaxRt := 0, cntRx := 0, rtrace := [], cur := 0, schedule := [], ticks := 0, answers := [], draws := 0, epoch := 0 }

@[simp] theorem block_traced (s : State) (x : RadioTxn) : (s.traced x).block = s.block := rfl
@[simp] theorem block_raiseIrq (s : State) : s.raiseIrq.block = s.block := rfl
@[simp] theorem block_raiseTxp (s : State) : s.raiseTxp.block = s.block := rfl
@[simp] theorem block_consumeEvents (s : State) : s.consumeEvents.block = s.block := rfl
@[simp] theorem block_withReuse (s : State) (b : Bool) : (s.withReuse b).block = s.block := rfl
@[simp] theorem block_withRxdef (s : State) (b : Bool) : (s.withRxdef b).block = s.block := rfl
@[simp] theorem block_countIrq (s : State) : s.countIrq.block = s.block := rfl
@[simp] theorem block_countSent (s : State) : s.countSent.block = s.block := rfl
@[simp] theorem block_countMaxRt (s : State) : s.countMaxRt.block = s.block := rfl
@[simp] theorem block_countRx (s : State) : s.countRx.block = s.block := rfl
@[simp] theorem block_drawn (s : State) : s.drawn.block = s.block := by simp [State.block]
@[simp] theorem block_chosen (s : State) : s.chosen.block = s.block := by simp [State.block]

theorem consistent_block {s : State} : Consistent s.block ↔ Consistent s :=
  ⟨fun h => ⟨{ h.shaped with }, { h.tags with }, { h.ranges with }, { h.control with }, h.ports⟩,
    fun h => ⟨{ h.shaped with }, { h.tags with }, { h.ranges with }, { h.control with }, h.ports⟩⟩

theorem Consistent.of_block {s t : State} (hs : Consistent s) (h : t.block = s.block) : Consistent t :=
  consistent_block.1 (h ▸ consistent_block.2 hs)

/-- An invariant of the step boundaries, in a state other than STOPPED and ERROR. -/
structure Live (J : State → Prop) (s : State) : Prop where
  holds : J s
  running : s.state ≠ .stopped
  unfaulted : s.state ≠ .error

theorem Live.of_ready {J : State → Prop} {s : State} (hs : J s) (hr : s.ready = true) : Live J s :=
  ⟨hs, fun h => by simp [State.ready, h] at hr, fun h => by simp [State.ready, h] at hr⟩

theorem state_of_block {s t : State} (h : t.block = s.block) : t.state = s.state := (congrArg State.state h :)

/-- What holds in a live state is live in a state with the same `STATE`. -/
theorem Live.of_state {J : State → Prop} {s t : State} (hs : Live J s) (ht : J t) (h : t.state = s.state) : Live J t :=
  ⟨ht, h ▸ hs.running, h ▸ hs.unfaulted⟩

theorem Live.of_block {s t : State} (hs : Live Consistent s) (h : t.block = s.block) : Live Consistent t :=
  hs.of_state (hs.holds.of_block h) (state_of_block h)

end Sys2Proof.Machine
end

section
/-! The ports, and the moves of a packet that keep the whole invariant of spec 10. -/

namespace Sys2Proof.Machine

theorem lenAt_of_set {s t : State} {h n : Nat} (ht : t.len = s.len.set h n) (hh : h < s.len.length) (k : Nat) :
    t.lenAt k = if k = h then n else s.lenAt k := by
  simp only [State.lenAt, List.getD, ht, List.getElem?_set]
  by_cases hk : k = h
  · simp [hk, hh]
  · simp [hk, Ne.symm hk]

/-! ### The ports -/

/-- A busy port holds a command with its own payload, and has appended no more of it than there is (10 R36, 30 R84). -/
def Port.Fits (pt : Port) : Prop :=
  pt.busy = true → pt.wdata.length = (decode pt.cmd).payloadLength ∧ pt.done ≤ pt.wdata.length

theorem portsAgree_iff {s : State} : PortsAgree s ↔ ∀ pt ∈ s.ports, pt.Fits := Iff.rfl

theorem PortsAgree.port {s : State} (hs : PortsAgree s) (p : Nat) : (s.port p).Fits := by
  by_cases hp : p < s.ports.length
  · rw [State.port, List.getD_eq_getElem _ _ hp]
    exact hs _ (List.getElem_mem hp)
  · rw [State.port, List.getD_eq_default _ _ (Nat.le_of_not_lt hp)]
    nofun

theorem PortsAgree.withPort {s : State} (hs : PortsAgree s) (p : Nat) {x : Port} (hx : x.Fits) : PortsAgree (s.withPort p x) := by
  intro pt hpt
  rcases List.mem_or_eq_of_mem_set hpt with hm | rfl
  · exact hs pt hm
  · exact hx

theorem Port.Fits.released {pt : Port} (h : pt.Fits) : pt.released.Fits := by
  unfold Port.released
  split
  · nofun
  · exact h

theorem PortsAgree.release {s : State} (hs : PortsAgree s) (keep : Option Nat) : PortsAgree (s.release keep) := by
  refine portsAgree_iff.2 fun pt hpt => ?_
  obtain ⟨q, hq, rfl⟩ := List.mem_mapIdx.1 hpt
  have hfits := portsAgree_iff.1 hs _ (List.getElem_mem hq)
  split
  · exact hfits
  · exact hfits.released

/-- The ports of a consistent state may be written where the ports go on agreeing. -/
theorem Consistent.withPorts {s : State} {ps : List Port} (hs : Consistent s) (hl : ps.length = s.ports.length)
    (hp : PortsAgree { s with ports := ps }) : Consistent { s with ports := ps } :=
  ⟨{ hs.shaped with ports := hl.trans hs.shaped.ports }, { hs.tags with }, { hs.ranges with }, { hs.control with }, hp⟩

theorem Consistent.withPort {s : State} (hs : Consistent s) (p : Nat) {x : Port} (hx : (s.port p).Fits → x.Fits) :
    Consistent (s.withPort p x) :=
  hs.withPorts List.length_set (hs.ports.withPort p (hx (hs.ports.port p)))

theorem Consistent.release {s : State} (hs : Consistent s) (keep : Option Nat) : Consistent (s.release keep) :=
  hs.withPorts (by simp) (hs.ports.release keep)

/-! ### Moves of a packet -/

namespace Live

variable {s : State} {h : Nat}

theorem tagged (hs : Live Consistent s) : Tagged s := hs.holds.tags.tagged hs.holds.shaped.owners

theorem slot_of_owner (hs : Live Consistent s) {tag : Owner} (ho : s.owner[h]? = some tag) : h < s.cfg.slots :=
  ((owner_eq_some_iff hs.holds.shaped.owners).1 ho).1

theorem fill_ne_none (hs : Live Consistent s) : s.fill ≠ none := mt hs.holds.control.fill.1 hs.running

theorem fill_slot (hs : Live Consistent s) : ∃ h, s.fill = some h ∧ s.owner[h]? = some .fill := by
  obtain ⟨h, hf⟩ := Option.ne_none_iff_exists'.1 hs.fill_ne_none
  exact ⟨h, hf, hs.tagged.owner_fill hf⟩

/-- `LEN` may be written of a slot that no queue and no drain references. -/
theorem withLen (hs : Live Consistent s) {tag : Owner} (ho : s.owner[h]? = some tag) (htag : tag = .fill ∨ tag = .free) {n : Nat}
    (hn : n ≤ Config.pkt) : Live Consistent { s with len := s.len.set h n } := by
  obtain ⟨hshaped, htags, hranges, hcontrol, hports⟩ := hs.holds
  have hlen (k : Nat) (hk : s.owner[k]? = some .txq ∨ s.owner[k]? = some .rxq ∨ s.owner[k]? = some .drain) :
      State.lenAt { s with len := s.len.set h n } k = s.lenAt k := by
    rw [lenAt_of_set rfl (hshaped.lens ▸ hs.slot_of_owner ho), if_neg]
    rintro rfl
    rcases htag with rfl | rfl <;> simp [ho] at hk
  refine hs.of_state ⟨?_, { htags with }, ?_, { hcontrol with }, hports⟩ rfl
  · refine { hshaped with lens := by simp [hshaped.lens], lenBound := fun m hm => ?_ }
    rcases List.mem_or_eq_of_mem_set hm with hm | rfl
    · exact hshaped.lenBound m hm
    · exact hn
  · exact { hranges with
      txLens := fun k hk => (hlen k (.inl (hs.tagged.owner_txq hk))).symm ▸ hranges.txLens k hk
      rxLens := fun k hk => (hlen k (.inr (.inl (hs.tagged.owner_rxq hk)))).symm ▸ hranges.rxLens k hk
      drainPos := fun k hk => (hlen k (.inr (.inr (hs.tagged.owner_drain hk)))).symm ▸ hranges.drainPos k hk }

/-- The packets of a running block may be rearranged where the tags and the ranges go on agreeing. -/
theorem repack (hs : Live Consistent s) {data : List Host.Cell} {evt : Evt} {owner : List Owner} {txq rxq : List Nat}
    {fill drain : Option Nat} {fillPos drainPos : Nat} (hevt : evt.stop = s.evt.stop) (hfill : fill ≠ none)
    (hl : owner.length = s.owner.length)
    (htags : Tagged { s with owner := owner, txq := txq, rxq := rxq, fill := fill, drain := drain })
    (hranges : InRange { s with
      txq := txq, rxq := rxq, fill := fill, fillPos := fillPos, drain := drain, drainPos := drainPos }) :
    Live Consistent { s with
      data := data, evt := evt, owner := owner, txq := txq, rxq := rxq, fill := fill, fillPos := fillPos, drain := drain
      drainPos := drainPos } := by
  have howners := hl.trans hs.holds.shaped.owners
  refine hs.of_state ⟨{ hs.holds.shaped with owners := howners }, { htags.tagsAgree howners with }, { hranges with }, ?_,
    hs.holds.ports⟩ rfl
  exact { hs.holds.control with
    stopEvent := by simpa only [hevt] using hs.holds.control.stopEvent
    fill := by simp [hfill, hs.running]
    stopped := fun hstop => absurd hstop hs.running }

/-- The fill position moves within the fill packet (10 R33). -/
theorem withFillPos (hs : Live Consistent s) {n : Nat} (hn : n ≤ Config.pkt) (d : List Host.Cell) :
    Live Consistent { s with data := d, fillPos := n } :=
  hs.repack rfl hs.fill_ne_none rfl hs.tagged
    { hs.holds.ranges with fillPos := hn, noFill := fun hf => absurd hf hs.fill_ne_none }

/-- With room in the transmit queue the pool has a free slot for the next fill packet (40 R118). -/
theorem exists_firstFree_of_flush (hs : Live Consistent s) (hf : s.fill = some h) (hq : s.txq.length < s.cfg.qtx) :
    ∃ h', (s.withOwner h .txq).firstFree = some h' := by
  refine (hs.tagged.fill_to_txq hf).exists_firstFree ?_
  have hslots := ((Config.wellFormed_iff s.cfg).1 hs.holds.shaped.config).1
  have hrx := hs.holds.ranges.rxq
  have hdrain : s.drain.toList.length ≤ 1 := by cases s.drain <;> simp
  simp only [Option.toList_none, List.length_nil, List.length_append, List.length_cons, List.length_set,
    hs.holds.shaped.owners]
  omega

/-- The fill packet goes to the transmit queue and a free slot takes its place (41 R130). -/
theorem fill_to_txq (hs : Live Consistent s) {h' : Nat} (hf : s.fill = some h) (hpos : 1 ≤ s.lenAt h)
    (hq : s.txq.length < s.cfg.qtx) (hfree : (s.withOwner h .txq).firstFree = some h') :
    Live Consistent { s with
      txq := s.txq ++ [h], owner := (s.owner.set h .txq).set h' .fill, evt := { s.evt with txp := true }, fill := some h'
      fillPos := 0 } :=
  hs.repack rfl nofun (by simp) ((hs.tagged.fill_to_txq hf).free_to_fill rfl (owner_of_firstFree hfree))
    { hs.holds.ranges with
      txq := by simpa using hq
      txLens := by simpa [or_imp, forall_and] using ⟨hs.holds.ranges.txLens, hpos⟩
      fillPos := Nat.zero_le _
      noFill := nofun }

/-- The oldest received packet becomes the drain packet (42 R160). -/
theorem rxq_to_drain (hs : Live Consistent s) {rest : List Nat} (hq : s.rxq = h :: rest) (hd : s.drain = none) :
    Live Consistent { s with
      rxq := rest, owner := s.owner.set h .drain, evt := { s.evt with fetch := true }, drain := some h, drainPos := 0 } := by
  have hroom := hs.holds.ranges.rxq
  have hlens := hs.holds.ranges.rxLens
  simp only [hq, List.length_cons, List.forall_mem_cons] at hroom hlens
  exact hs.repack rfl hs.fill_ne_none (by simp) (hs.tagged.rxq_to_drain hq hd)
    { hs.holds.ranges with
      rxq := Nat.le_of_succ_le hroom
      rxLens := hlens.2
      noDrain := nofun
      drainPos := fun k hk => Option.some.inj hk ▸ hlens.1 }

/-- The drain position moves within the drain packet (10 R34). -/
theorem withDrainPos (hs : Live Consistent s) {n : Nat} (hd : s.drain = some h) (hn : n < s.lenAt h) :
    Live Consistent { s with drainPos := n } :=
  hs.repack rfl hs.fill_ne_none rfl hs.tagged
    { hs.holds.ranges with
      noDrain := by simp [hd]
      drainPos := fun k hk => Option.some.inj (hd.symm.trans hk) ▸ hn }

/-- The drain packet, read to its end, is freed (42 R161). -/
theorem drain_to_free (hs : Live Consistent s) (hd : s.drain = some h) :
    Live Consistent { s with owner := s.owner.set h .free, drain := none, drainPos := 0 } :=
  hs.repack rfl hs.fill_ne_none (by simp) (hs.tagged.drain_to_free hd)
    { hs.holds.ranges with noDrain := fun _ => rfl, drainPos := nofun }

/-- The oldest packet of the transmit queue leaves it and is freed (44 R218). -/
theorem txq_to_free (hs : Live Consistent s) {rest : List Nat} (hq : s.txq = h :: rest) :
    Live Consistent { s with txq := rest, owner := s.owner.set h .free } := by
  have hroom := hs.holds.ranges.txq
  have hlens := hs.holds.ranges.txLens
  simp only [hq, List.length_cons, List.forall_mem_cons] at hroom hlens
  exact hs.repack rfl hs.fill_ne_none (by simp) (hs.tagged.txq_to_free hq)
    { hs.holds.ranges with txq := Nat.le_of_succ_le hroom, txLens := hlens.2 }

/-- A free slot with a packet in it goes to the receive queue (44 R217). -/
theorem free_to_rxq (hs : Live Consistent s) (hfree : s.owner[h]? = some .free) (hpos : 1 ≤ s.lenAt h)
    (hq : s.rxq.length < s.cfg.qrx) : Live Consistent { s with rxq := s.rxq ++ [h], owner := s.owner.set h .rxq } :=
  hs.repack rfl hs.fill_ne_none (by simp) (hs.tagged.free_to_rxq hfree)
    { hs.holds.ranges with
      rxq := by simpa using hq
      rxLens := by simpa [or_imp, forall_and] using ⟨hs.holds.ranges.rxLens, hpos⟩ }

end Live
end Sys2Proof.Machine
end

section
/-! What it takes for an invariant to be kept by every step (00 R9): its operations, and the commands of a port made of them. -/

namespace Sys2Proof.Machine

/-- The outcome is a next state with `J`, or a refusal, or a fault, which only `E` allows. -/
def Leads (E : Prop) (J : State → Prop) : Host.Outcome State Fault Refusal → Prop
  | .next t => J t
  | .fault _ => E
  | .refused _ => True

theorem one_le_of_full {n : Nat} (h : ¬ n < Config.pkt) : 1 ≤ n := Nat.le_trans (by decide) (Nat.le_of_not_lt h)

theorem room_of_putGuard {s : State} (hg : s.putGuard = true) (hr : s.ready = true) :
    s.fillPos < Config.pkt ∨ (s.port s.cur).phase = .b ∧ s.txq.length < s.cfg.qtx := by
  unfold State.putGuard at hg
  cases hph : (s.port s.cur).phase <;> simp_all

theorem room_of_writeGuard {s : State} {n : Nat} (hg : s.writeGuard n = true) (hr : s.ready = true) :
    s.fillPos < Config.pkt ∨ (s.port s.cur).phase = .a ∧ (s.port s.cur).done = n
      ∨ (s.port s.cur).phase = .b ∧ s.txq.length < s.cfg.qtx := by
  unfold State.writeGuard at hg
  cases hph : (s.port s.cur).phase <;> simp_all

theorem writeChunk_length_le (s : State) (n : Nat) :
    (s.writeChunk n).length ≤ Config.pkt - s.fillPos
      ∧ (s.writeChunk n).length ≤ (s.port s.cur).wdata.length - (s.port s.cur).done := by
  simp only [State.writeChunk, List.length_take, List.length_drop]
  omega

/-- Each operation of a step keeps `J` where the step performs it, and ends in a fault only where `E` allows that. The
hypotheses of a field are what the step has checked before it performs the operation. -/
structure StepInvariant (E : Prop) (J : State → Prop) : Prop where
  block : ∀ {s t : State}, J s → t.block = s.block → J t
  withPort : ∀ {s : State} {p : Nat} {x : Port}, J s → ((s.port p).Fits → x.Fits) → J (s.withPort p x)
  error : E → ∀ (c : Cause) (p : Option Nat) (s : State), J (enterError c p s)
  append : ∀ {s : State} {bs : List Byte}, Live J s → s.fillPos + bs.length ≤ Config.pkt →
    (appendFill bs s).Ends E fun _ => Live J
  flush : ∀ {s : State}, Live J s → 1 ≤ s.fillPos → s.txq.length < s.cfg.qtx → (flushCore s).Ends E fun _ => Live J
  adopt : ∀ {s : State}, Live J s → s.drain = none → s.rxq ≠ [] →
    (adopt s).Ends E fun _ t => Live J t ∧ t.drain ≠ none
  consume : ∀ {s : State} {k : Nat}, Live J s → s.drain ≠ none →
    (1 ≤ s.drainRemainder → 1 ≤ k ∧ k ≤ s.drainRemainder) → (consume k s).Ends E fun _ => Live J
  start : ∀ {s : State} {m : Mode}, J s → s.state = .stopped → (startUp m s).Ends E fun _ => J
  stop : ∀ {s : State}, Live J s → s.ready = true →
    J (State.release { s.raiseStop with state := .stopping, stopPolls := 0 } (some s.cur))
  reset : ∀ {s : State}, J s → s.state = .error →
    J { s with state := .stopped, errCause := none }.poolDestroy.clearFlags
  rst : ∀ {s : State}, J s → J s.afterRst
  listen : ∀ {s : State}, Live J s → s.state ≠ .stopping → Live J { radioBeginListening s with state := .receiving }
  transmit : ∀ {s : State}, Live J s → s.state ≠ .stopping → Live J { radioBecomeTx s with state := .transmitting }
  becomeTx : ∀ {s : State}, Live J s → s.state = .stopping → Live J (radioBecomeTx s)
  load : ∀ {s : State} {h n : Nat}, Live J s → s.firstFree = some h → 1 ≤ n → n ≤ Config.pkt →
    s.rxq.length ≠ s.cfg.qrx → (rxLoad h n (s.withOwner h .loading)).Ends E fun _ => Live J
  send : ∀ {s : State} {kind : TxKind}, Live J s → s.txq ≠ [] → (txOne kind s).Ends E fun _ => Live J
  poll : ∀ {s : State}, Live J s → (∀ l ∈ s.cfg.stopPollLimit, s.stopPolls + 1 ≤ l) →
    J { s with stopPolls := s.stopPolls + 1 }
  finalize : ∀ {s : State}, Live J s → J (finalize s)

namespace StepInvariant

variable {E : Prop} {J : State → Prop} {s : State} (K : StepInvariant E J)

include K

theorem leads_endPort {r : Res Unit} (hr : r.Ends E fun _ => J) : Leads E J r.endPort := by
  cases r with
  | ok u t => exact hr
  | fatal c t => exact K.error hr c _ t
  | stop f => exact hr

theorem leads_endLoop {r : Res Unit} (hr : r.Ends E fun _ => J) : Leads E J r.endLoop := by
  cases r with
  | ok u t => exact hr
  | fatal c t => exact K.error hr c _ t
  | stop f => exact hr

theorem live_block {t : State} (hs : Live J s) (h : t.block = s.block) : Live J t :=
  hs.of_state (K.block hs.holds h) (state_of_block h)

theorem respond (hs : J s) (r : Rstat) (v : Word) (d : List Byte) : J (s.respond r v d) := K.withPort hs fun _ => nofun

theorem withPhase (hs : J s) (ph : Phase) : J (s.withPhase ph) := K.withPort hs fun hfits => hfits

theorem live_writePort {p : Nat} {x : Port} (hs : Live J s) (hx : (s.port p).Fits → x.Fits) : Live J (s.withPort p x) :=
  hs.of_state (K.withPort hs.holds hx) rfl

/-! ### The commands -/

/-- A byte-stream command is held, or answered NOTREADY, or has its guard and a Ready state (00 R10). -/
theorem leads_guarded {g : Bool} {v : Word} {o : Host.Outcome State Fault Refusal} (hs : J s)
    (ho : g = true → s.ready = true → Leads E J o) :
    Leads E J (if !g then .next s else if !s.ready then .next (s.respond .notReady v []) else o) := by
  split
  · exact hs
  rename_i hg
  split
  · exact K.respond hs _ _ _
  rename_i hr
  exact ho (by simpa using hg) (by simpa using hr)

theorem ends_flush_respond {v : Word} (hs : Live J s) (hpos : 1 ≤ s.fillPos) (hq : s.txq.length < s.cfg.qtx) :
    ((flushCore s).bind fun _ s => .ok () (s.respond .ok v [])).Ends E fun _ => J :=
  (K.flush hs hpos hq).bind fun _ _ ht => K.respond ht.holds _ _ _

theorem ends_putPhaseA {b : Byte} (hs : Live J s) (hroom : s.fillPos < Config.pkt) : (putPhaseA b s).Ends E fun _ => J := by
  refine (K.append hs (by simpa using hroom)).bind fun _ t ht => ?_
  split
  · exact K.respond ht.holds _ _ _
  · rename_i hfull
    split
    · exact K.ends_flush_respond ht (one_le_of_full hfull) ‹_›
    · exact K.withPhase ht.holds _

theorem ends_putPhaseB (hs : Live J s) (hq : s.fillPos < Config.pkt ∨ s.txq.length < s.cfg.qtx) :
    (putPhaseB s).Ends E fun _ => J := by
  unfold putPhaseB
  split
  · exact K.respond hs.holds _ _ _
  · rename_i hfull
    exact K.ends_flush_respond hs (one_le_of_full hfull) (hq.resolve_left hfull)

theorem leads_put {b : BitVec 8} (hs : J s) : Leads E J (execPut b s) := by
  refine K.leads_guarded hs fun hg hr => ?_
  have hl := Live.of_ready hs hr
  have hroom := room_of_putGuard hg hr
  cases hph : (s.port s.cur).phase with
  | a => exact K.leads_endPort (K.ends_putPhaseA hl (hroom.resolve_right fun h => by simp [hph] at h))
  | b => exact K.leads_endPort (K.ends_putPhaseB hl (hroom.imp_right And.right))

theorem ends_finishWrite {n : Nat} (hs : J s) :
    (if (s.port s.cur).done = n then Res.ok () (s.respond .ok (toRval n) []) else .ok () (s.withPhase .a)).Ends E fun _ => J := by
  split
  · exact K.respond hs _ _ _
  · exact K.withPhase hs _

theorem live_withChunk {n : Nat} (hs : Live J s) : Live J (s.withDone ((s.port s.cur).done + (s.writeChunk n).length)) := by
  refine K.live_writePort hs fun hfits hb => ?_
  obtain ⟨hlen, hdone⟩ := hfits hb
  have := (writeChunk_length_le s n).2
  exact ⟨hlen, by simp only; omega⟩

theorem ends_writePhaseA {n : Nat} (hs : Live J s) (hroom : s.fillPos < Config.pkt ∨ (s.port s.cur).done = n) :
    (writePhaseA n s).Ends E fun _ => J := by
  unfold writePhaseA
  split
  · exact K.respond hs.holds _ _ _
  rename_i hmore
  have hfit : s.fillPos + (s.writeChunk n).length ≤ Config.pkt := by
    have := hroom.resolve_right hmore
    have := (writeChunk_length_le s n).1
    omega
  refine (K.append (K.live_withChunk hs) hfit).bind fun _ t ht => ?_
  split
  · exact K.respond ht.holds _ _ _
  rename_i hfull
  split
  · exact (K.flush ht (one_le_of_full hfull) ‹_›).bind fun _ _ hu => K.ends_finishWrite hu.holds
  · exact K.withPhase ht.holds _

theorem ends_writePhaseB {n : Nat} (hs : Live J s) (hq : s.fillPos < Config.pkt ∨ s.txq.length < s.cfg.qtx) :
    (writePhaseB n s).Ends E fun _ => J := by
  refine Res.Ends.bind (Q := fun _ => Live J) ?_ fun _ t ht => K.ends_finishWrite ht.holds
  split
  · rename_i hfull
    have hfull : ¬ s.fillPos < Config.pkt := by omega
    exact K.flush hs (one_le_of_full hfull) (hq.resolve_left hfull)
  · exact hs

theorem leads_write {n : BitVec 24} (hs : J s) : Leads E J (execWrite n s) := by
  refine K.leads_guarded hs fun hg hr => ?_
  have hl := Live.of_ready hs hr
  have hroom := room_of_writeGuard hg hr
  cases hph : (s.port s.cur).phase with
  | a => exact K.leads_endPort (K.ends_writePhaseA hl (by simpa [hph] using hroom))
  | b => exact K.leads_endPort (K.ends_writePhaseB hl (by simpa [hph] using hroom))

theorem leads_flush (hs : J s) : Leads E J (execFlush s) := by
  refine K.leads_guarded hs fun hg hr => ?_
  split
  · exact K.respond hs _ _ _
  rename_i hpos
  have hq : s.txq.length < s.cfg.qtx := by simpa [State.flushGuard, hr, hpos] using hg
  exact K.leads_endPort (K.ends_flush_respond (.of_ready hs hr) (Nat.pos_of_ne_zero hpos) hq)

theorem ends_adoptIfNone (hs : Live J s) (h : s.drain ≠ none ∨ s.rxq ≠ []) :
    (adoptIfNone s).Ends E fun _ t => Live J t ∧ t.drain ≠ none := by
  unfold adoptIfNone
  split
  · rename_i hd
    rw [Option.isNone_iff_eq_none] at hd
    exact K.adopt hs hd (h.resolve_left (not_not.2 hd))
  · rename_i hd
    exact ⟨hs, by simpa using hd⟩

theorem leads_get (hs : J s) : Leads E J (execGet s) := by
  refine K.leads_guarded hs fun hg hr => K.leads_endPort ?_
  have hsome : s.drain ≠ none ∨ s.rxq ≠ [] := by simpa [State.getGuard, hr, Option.isSome_iff_ne_none] using hg
  refine (K.ends_adoptIfNone (.of_ready hs hr) hsome).bind fun _ t ⟨ht, hd⟩ => ?_
  exact (K.consume ht hd fun h => ⟨Nat.le_refl 1, h⟩).bind fun _ _ hu => K.respond hu.holds _ _ _

theorem ends_readLoop {maxN fuel : Nat} {out : List Byte} (hs : Live J s) :
    (readLoop maxN fuel out s).Ends E fun _ => Live J := by
  induction fuel generalizing out s with
  | zero => exact hs
  | succ fuel ih =>
    unfold readLoop
    split
    · exact hs
    rename_i hmore
    split
    · exact hs
    rename_i hsome
    refine (K.ends_adoptIfNone hs (by simpa [imp_iff_not_or] using hsome)).bind fun _ t ⟨ht, hd⟩ => ?_
    exact (K.consume ht hd fun h => by omega).bind fun _ _ hu => ih hu

theorem leads_read {maxN : BitVec 24} (hs : J s) : Leads E J (execRead maxN s) := by
  refine K.leads_guarded hs fun _ hr => K.leads_endPort ?_
  exact (K.ends_readLoop (.of_ready hs hr)).bind fun _ _ ht => K.respond ht.holds _ _ _

theorem leads_start {mode : BitVec 2} (hs : J s) : Leads E J (execStart mode s) := by
  unfold execStart
  cases modeOf mode with
  | none => exact K.respond hs _ _ _
  | some m =>
    simp only
    split
    · exact K.respond hs _ _ _
    · exact K.leads_endPort (K.start hs (not_not.1 ‹_›))

theorem leads_stop (hs : J s) : Leads E J (execStop s) := by
  unfold execStop
  split
  · exact K.respond hs _ _ _
  · rename_i hr
    have hr : s.ready = true := by simpa using hr
    exact K.respond (K.stop (.of_ready hs hr) hr) _ _ _

theorem leads_reset (hs : J s) : Leads E J (execReset s) := by
  unfold execReset
  split
  · exact K.respond hs _ _ _
  · exact K.respond (K.reset hs (not_not.1 ‹_›)) _ _ _

theorem leads_exec (i : Instr) (hs : J s) : Leads E J (exec i s) := by
  cases i with
  | put b => exact K.leads_put hs
  | write n => exact K.leads_write hs
  | flush => exact K.leads_flush hs
  | get => exact K.leads_get hs
  | read maxN => exact K.leads_read hs
  | start mode => exact K.leads_start hs
  | stop => exact K.leads_stop hs
  | reset => exact K.leads_reset hs
  | stats sel => exact K.respond hs _ _ _
  | avail =>
    simp only [exec, execAvail]
    split <;> exact K.respond hs _ _ _
  | status sel =>
    simp only [exec, execStatus]
    split <;> exact K.respond hs _ _ _

end StepInvariant
end Sys2Proof.Machine
end

section
/-! The event loop and the other agents, for an invariant that the operations of a step keep (spec 44, 00 R8). -/

namespace Sys2Proof.Machine

@[simp] theorem rxLength_cfg (s : State) : (rxLength s).2.cfg = s.cfg := by
  unfold rxLength
  split <;> simp [radioRxLen]

@[simp] theorem rxLength_rxq (s : State) : (rxLength s).2.rxq = s.rxq := by
  unfold rxLength
  split <;> simp [radioRxLen]

theorem State.pollLimitReached_eq_false_iff {s : State} :
    s.pollLimitReached = false ↔ ∀ l ∈ s.cfg.stopPollLimit, s.stopPolls < l := by
  unfold State.pollLimitReached
  cases s.cfg.stopPollLimit <;> simp

namespace StepInvariant

variable {E : Prop} {J : State → Prop} {s : State} (K : StepInvariant E J)

include K

/-! ### The event loop -/

theorem live_dropPacket (hs : Live J s) (ht : s.state = .transmitting) : Live J (dropPacket s).2 := by
  have hr : Live J (s.withReuse false) := K.live_block hs (by simp)
  have hl := K.listen hr (by simp [ht])
  unfold dropPacket
  simp only
  split
  · split
    · exact hl
    · exact K.live_block hl (by simp)
  · exact hr

theorem live_retry (hs : Live J s) (ht : s.state = .transmitting) : Live J (retry s).2 := by
  unfold retry
  split
  · exact K.live_dropPacket hs ht
  · exact K.live_block hs (by simp [radioResend])

theorem live_poll (hs : Live J s) (b : Bool) : Live J (radioPoll b s).2 := K.live_block hs (by simp [radioPoll])

theorem live_rxLength (hs : Live J s) : Live J (rxLength s).2 := by
  unfold rxLength
  split
  · exact K.live_block hs (by simp [radioRxLen])
  · exact hs

theorem ends_rxFillLoop {fuel : Nat} {avail : Bool} (hs : Live J s) : (rxFillLoop fuel avail s).Ends E fun _ => Live J := by
  induction fuel generalizing avail s with
  | zero => exact hs
  | succ fuel ih =>
    unfold rxFillLoop
    split
    · exact K.live_block hs (by simp)
    split
    · exact K.live_block hs (by simp)
    rename_i hroom
    have hl := K.live_rxLength hs
    simp only
    split
    · exact K.live_block hl (by simp)
    rename_i hlen
    rcases poolTryAlloc_cases .loading (rxLength s).2 with ⟨-, ha⟩ | ⟨h, hfree, ha⟩
    · rw [ha]
      exact K.live_block hl (by simp)
    · rw [ha]
      have hfull : s.rxq.length ≠ s.cfg.qrx := fun heq => hroom (by simp [State.rxFull, heq])
      have hq : (rxLength s).2.rxq.length ≠ (rxLength s).2.cfg.qrx := by simpa using hfull
      exact (K.load hl hfree (by omega) (by omega) hq).bind fun _ _ ht => ih (K.live_poll ht false)

theorem ends_handleIrq (hs : Live J s) : (handleIrq s).Ends E fun _ => Live J := by
  unfold handleIrq
  have hp := K.live_poll hs true
  simp only
  generalize hs1 : (if (radioPoll true s).1.dataSent then _ else _ : State) = s1
  have h1 : Live J s1 := by
    subst hs1
    split
    · exact K.live_block hp (by simp)
    · exact hp
  have hc : Live J s1.countMaxRt := K.live_block h1 (by simp)
  generalize hr : (if (radioPoll true s).1.maxRetriesExceeded then _ else _ : Bool × State) = r
  have h2 : Live J r.2 := by
    subst hr
    split
    · split
      · exact K.live_retry hc ‹_›
      · exact hc
    · exact h1
  split
  · exact (K.ends_rxFillLoop (K.live_block h2 (by simp))).bind fun _ _ ht => ht
  · exact h2

theorem ends_txDrainLoop {kind : TxKind} {fuel : Nat} (hs : Live J s) : (txDrainLoop kind fuel s).Ends E fun _ => Live J := by
  induction fuel generalizing s with
  | zero => exact hs
  | succ fuel ih =>
    unfold txDrainLoop
    split
    · exact hs
    rename_i hq
    have hf : Live J (radioTxFull s).2 := K.live_block hs (by simp [radioTxFull])
    simp only
    split
    · exact hf
    · refine (K.send hf (by simpa [radioTxFull] using hq)).bind fun more t ht => ?_
      split
      · exact ih ht
      · exact ht

theorem ends_txDrain (hs : Live J s) : (txDrain s).Ends E fun _ => Live J := by
  unfold txDrain
  cases s.txKind with
  | none => exact hs
  | some kind => exact K.ends_txDrainLoop hs

theorem ends_elStart (hs : Live J s) (hstart : s.state = .starting) : (elStart s).Ends E fun _ => J := by
  unfold elStart
  cases s.mode with
  | ptxOnly => exact (K.transmit hs (by simp [hstart])).holds
  | prxOnly | adhoc => exact (K.listen hs (by simp [hstart])).holds

theorem live_iterSwitch {fellBack : Bool} (hs : Live J s) : Live J (iterSwitch fellBack s) := by
  unfold iterSwitch
  split
  · rename_i hif
    obtain ⟨-, hrx, -, -⟩ := hif
    exact K.live_block (K.transmit hs (by simp [hrx])) (by simp [switchToTx])
  · exact hs

theorem live_iterTurnaround (hs : Live J s) : Live J (iterTurnaround s) := by
  unfold iterTurnaround
  split
  · rename_i hif
    obtain ⟨-, htx, -⟩ := hif
    have he : Live J (radioTxEmpty s).2 := K.live_block hs (by simp [radioTxEmpty])
    unfold turnaround
    simp only
    split
    · exact K.live_block (K.listen he (by simp [radioTxEmpty, htx])) (by simp)
    · exact he
  · exact hs

theorem ends_iterFetch {ev : Evt} (hs : Live J s) : (iterFetch ev s).Ends E fun _ => Live J := by
  unfold iterFetch
  split
  · exact K.ends_rxFillLoop (K.live_poll hs false)
  · exact hs

theorem ends_iterIrq {ev : Evt} (hs : Live J s) : (iterIrq ev s).Ends E fun _ => Live J := by
  unfold iterIrq
  split
  · exact K.ends_handleIrq hs
  · exact hs

theorem ends_elIter (hs : Live J s) : (elIter s).Ends E fun _ => J :=
  (K.ends_iterIrq (K.live_block hs (by simp))).bind fun _ _ h1 =>
    (K.ends_iterFetch h1).bind fun _ _ h2 =>
      (K.ends_txDrain (K.live_iterSwitch h2)).bind fun _ _ h3 => (K.live_iterTurnaround h3).holds

theorem holds_stopPoll (hs : Live J s) : J (stopPoll s) := by
  unfold stopPoll
  simp only
  split
  · have hfinal : J (Machine.finalize s) := K.finalize hs
    exact hfinal
  · rename_i hlimit
    have hbelow := State.pollLimitReached_eq_false_iff.1 (Bool.eq_false_of_not_eq_true hlimit)
    exact K.poll hs fun l hl => Nat.le_of_lt (hbelow l hl)

theorem ends_elStop (hs : Live J s) (hstop : s.state = .stopping) : (elStop s).Ends E fun _ => J := by
  have hsw : Live J (stopSwitch s) := by
    unfold stopSwitch
    split
    · exact K.becomeTx hs hstop
    · exact hs
  refine (K.ends_txDrain hsw).bind fun _ t ht => ?_
  have he : Live J (radioTxEmpty t).2 := K.live_block ht (by simp [radioTxEmpty])
  split
  · simp only [ends_ok]
    split
    · exact K.finalize he
    · exact K.holds_stopPoll he
  · exact K.holds_stopPoll ht

theorem leads_elStep (hs : J s) : Leads E J (elStep s) := by
  unfold elStep State.elEnabled
  cases hst : s.state with
  | stopped | error => exact hs
  | starting => exact K.leads_endLoop (K.ends_elStart ⟨hs, by simp [hst], by simp [hst]⟩ hst)
  | stopping => exact K.leads_endLoop (K.ends_elStop ⟨hs, by simp [hst], by simp [hst]⟩ hst)
  | receiving | transmitting =>
    cases s.evt.pending with
    | false => exact hs
    | true => exact K.leads_endLoop (K.ends_elIter ⟨hs, by simp [hst], by simp [hst]⟩)

/-! ### The agents -/

theorem leads_portStep (p : Nat) (hs : J s) : Leads E J (portStep p s) := by
  have hcur : J { s with cur := p } := K.block hs rfl
  unfold portStep
  split
  · cases decode (s.port p).cmd with
    | ok i => exact K.leads_exec i hcur
    | illegal r => exact K.respond hcur _ _ _
  · exact hs

theorem leads_hostStep (p : Nat) (w : Word) (payload : List Byte) (hs : J s) : Leads E J (hostStep p w payload s) := by
  unfold hostStep
  split
  · split
    · rename_i hlen
      exact K.withPort hs fun _ _ => ⟨hlen, Nat.zero_le _⟩
    · trivial
  · exact hs

theorem leads_irqStep (hs : J s) : Leads E J (irqStep s) := by
  unfold irqStep
  split
  · exact K.block hs (by simp)
  · exact hs

theorem leads_step (hs : J s) : Leads E J (step s) := by
  have hc : J s.chosen := K.block hs (by simp)
  unfold step
  split
  · cases s.nextEvent with
    | port p => exact K.leads_portStep p hc
    | el => exact K.leads_elStep hc
    | irq => exact K.leads_irqStep hc
    | host p w payload => exact K.leads_hostStep p w payload hc
    | rst => exact K.rst hc
  · trivial

/-- What every operation of a step keeps, every step keeps. -/
theorem kept {t : State} (hs : J s) (ht : step s = .next t) : J t := by
  have hlead := K.leads_step hs
  rwa [ht] at hlead

end StepInvariant

end Sys2Proof.Machine
end

section
/-! From the invariant of spec 10 each micro-operation of the packet paths keeps it and faults nowhere (40 R118). -/

namespace Sys2Proof.Machine

theorem setLen_ok {s : State} {h n : Nat} (hh : h < s.cfg.slots) : setLen h n s = .ok () { s with len := s.len.set h n } :=
  if_neg (not_not.2 hh)

theorem setOwner_ok {s : State} {h : Nat} {tag : Owner} (hh : h < s.cfg.slots) : setOwner h tag s = .ok () (s.withOwner h tag) :=
  if_neg (not_not.2 hh)

theorem dequeue_ok {q : Queue} {tag : Owner} {s : State} {h : Nat} {rest : List Nat} (hq : s.queue q = h :: rest)
    (hh : h < s.cfg.slots) : dequeue q tag s = .ok h ((s.withQueue q rest).withOwner h tag) := by
  unfold dequeue
  rw [hq]
  have hh' : h < (s.withQueue q rest).cfg.slots := by cases q <;> exact hh
  simp only [setOwner_ok hh', bind_ok]

theorem poolFree_ok {s : State} {h : Nat} (hh : h < s.cfg.slots) (ho : s.ownerAt h ≠ .free) :
    poolFree (some h) s = .ok () (s.withOwner h .free) := by
  simp [poolFree, hh, ho]

theorem ends_poolFree {E : Prop} {handle : Option Nat} {s : State} {h : Nat} (hp : handle = some h) (hh : h < s.cfg.slots)
    (ho : s.ownerAt h ≠ .free) : (poolFree handle s).Ends E fun _ t => t = s.withOwner h .free := by
  subst hp
  rw [poolFree_ok hh ho, ends_ok]

theorem Shaped.lenAt_le {s : State} (hs : Shaped s) (h : Nat) : s.lenAt h ≤ Config.pkt := by
  by_cases hh : h < s.len.length
  · rw [State.lenAt, List.getD_eq_getElem _ _ hh]
    exact hs.lenBound _ (List.getElem_mem hh)
  · rw [State.lenAt, List.getD_eq_default _ _ (Nat.le_of_not_lt hh)]
    exact Nat.zero_le _

@[simp] theorem block_withOwner (s : State) (h : Nat) (tag : Owner) : (s.withOwner h tag).block = s.block.withOwner h tag := rfl

@[simp] theorem block_handOff (kind : TxKind) (d : List Byte) (n : Nat) (s : State) : (handOff kind d n s).2.block = s.block := by
  cases kind <;> simp [handOff, radioSend, radioAckPayload]

theorem rxLoad_ok {h n : Nat} {s : State} (hh : h < s.cfg.slots) (hq : s.rxq.length ≠ s.cfg.qrx) :
    rxLoad h n s = .ok () { s.drawn with
      rtrace := s.rtrace ++ [.rxPayload n (s.answer.payload.toList.take n)]
      data := Memory.writeAll s.data h 0 (s.answer.payload.toList.take n)
      len := s.len.set h n, rxq := s.rxq ++ [h], owner := s.owner.set h .rxq } := by
  simp only [rxLoad, radioRxPayload]
  rw [writeBytes_ok (by simpa using hh) (by simp), bind_ok, setLen_ok (by simpa using hh), bind_ok, enqueue,
    if_neg (by simpa [State.queue, State.capacity] using hq), setOwner_ok (by simpa [State.withQueue] using hh)]
  simp [State.withOwner, State.withQueue, State.queue, State.traced]

theorem live_append {s : State} {bs : List Byte} (hs : Live Consistent s) (hfit : s.fillPos + bs.length ≤ Config.pkt) :
    (appendFill bs s).Ends False fun _ => Live Consistent := by
  obtain ⟨h, hf, ho⟩ := hs.fill_slot
  rw [appendFill_ok hf (hs.slot_of_owner ho) hfit]
  exact hs.withFillPos hfit _

theorem live_flush {s : State} (hs : Live Consistent s) (hpos : 1 ≤ s.fillPos) (hq : s.txq.length < s.cfg.qtx) :
    (flushCore s).Ends False fun _ => Live Consistent := by
  obtain ⟨h, hf, ho⟩ := hs.fill_slot
  obtain ⟨h', hfree⟩ := hs.exists_firstFree_of_flush hf hq
  rw [flushCore_ok hf (hs.slot_of_owner ho) (Nat.ne_of_lt hq) hfree]
  have hlen : State.lenAt { s with len := s.len.set h s.fillPos } h = s.fillPos := by
    rw [lenAt_of_set rfl (hs.holds.shaped.lens ▸ hs.slot_of_owner ho), if_pos rfl]
  exact (hs.withLen ho (.inl rfl) hs.holds.ranges.fillPos).fill_to_txq hf (hlen.symm ▸ hpos) hq hfree

theorem live_adopt {s : State} (hs : Live Consistent s) (hd : s.drain = none) (hq : s.rxq ≠ []) :
    (adopt s).Ends False fun _ t => Live Consistent t ∧ t.drain ≠ none := by
  obtain ⟨h, rest, hq⟩ := List.exists_cons_of_ne_nil hq
  have hh := hs.slot_of_owner (hs.tagged.owner_rxq (h := h) (by simp [hq]))
  unfold adopt
  rw [dequeue_ok (q := .rx) hq hh]
  exact ⟨hs.rxq_to_drain hq hd, nofun⟩

theorem live_consume {s : State} {k : Nat} (hs : Live Consistent s) (hd : s.drain ≠ none)
    (hk : 1 ≤ s.drainRemainder → 1 ≤ k ∧ k ≤ s.drainRemainder) : (consume k s).Ends False fun _ => Live Consistent := by
  obtain ⟨h, hd⟩ := Option.ne_none_iff_exists'.1 hd
  have ho := hs.tagged.owner_drain hd
  have hpos := hs.holds.ranges.drainPos h hd
  have hle := hs.holds.shaped.lenAt_le h
  simp only [State.drainRemainder, hd] at hk
  obtain ⟨hk1, hk2⟩ := hk (by omega)
  unfold consume
  simp only [hd, hk1, hk2, and_self, not_true_eq_false, if_false]
  rw [readBytes_ok (hs.slot_of_owner ho) (by simp only [Config.pkt] at hle; omega)]
  simp only [bind_ok]
  split
  · obtain ⟨hh, htag⟩ := (owner_eq_some_iff hs.holds.shaped.owners).1 ho
    have hne : s.ownerAt h ≠ .free := by simp [htag]
    refine Res.Ends.bind (ends_poolFree hd hh hne) ?_
    rintro _ _ rfl
    exact hs.drain_to_free hd
  · rename_i hlast
    exact hs.withDrainPos hd (Nat.lt_of_le_of_ne (by omega) hlast)

theorem live_send {s : State} {kind : TxKind} (hs : Live Consistent s) (hq : s.txq ≠ []) :
    (txOne kind s).Ends False fun _ => Live Consistent := by
  obtain ⟨h, rest, hq⟩ := List.exists_cons_of_ne_nil hq
  have ho := hs.tagged.owner_txq (h := h) (by simp [hq])
  have hh := hs.slot_of_owner ho
  rw [txOne, dequeue_ok (q := .tx) hq hh, bind_ok]
  generalize hs1 : (s.withQueue .tx rest).withOwner h .inflight = s1
  have hh1 : h < s1.cfg.slots := hs1 ▸ hh
  have hlen : s1.lenAt h ≤ 32 := hs1 ▸ hs.holds.shaped.lenAt_le h
  rw [readBytes_ok hh1 (by omega), bind_ok]
  generalize hr : handOff kind _ _ _ = r
  have hblock : r.2.block = s1.block := hr ▸ block_handOff ..
  have hcfg : r.2.cfg = s1.cfg := (congrArg State.cfg hblock :)
  have howner : r.2.owner = s.owner.set h .inflight := (congrArg State.owner hblock :).trans (hs1 ▸ rfl)
  refine Res.Ends.bind (ends_poolFree rfl (hcfg ▸ hh1) ?_) ?_
  · simp [State.ownerAt, howner, List.getD, (List.getElem?_eq_some_iff.1 ho).1]
  rintro _ _ rfl
  refine (hs.txq_to_free hq).of_block ?_
  rw [block_withOwner, hblock, ← hs1]
  simp [State.block, State.withOwner, State.withQueue]

theorem live_load {s : State} {h n : Nat} (hs : Live Consistent s) (hfree : s.firstFree = some h) (hpos : 1 ≤ n)
    (hn : n ≤ Config.pkt) (hq : s.rxq.length ≠ s.cfg.qrx) :
    (rxLoad h n (s.withOwner h .loading)).Ends False fun _ => Live Consistent := by
  have ho := owner_of_firstFree hfree
  have hh := hs.slot_of_owner ho
  have hlt : s.rxq.length < s.cfg.qrx := Nat.lt_of_le_of_ne hs.holds.ranges.rxq hq
  have hlen : State.lenAt { s with len := s.len.set h n } h = n := by
    rw [lenAt_of_set rfl (hs.holds.shaped.lens ▸ hh), if_pos rfl]
  have hload := (hs.withLen ho (.inr rfl) hn).free_to_rxq ho (hlen.symm ▸ hpos) hlt
  rw [rxLoad_ok (s := s.withOwner h .loading) hh hq]
  exact hload.of_block (by simp [State.block])

end Sys2Proof.Machine
end

section
/-! The lifecycle keeps the invariant of spec 10, and with it every step (O50). -/

namespace Sys2Proof.Machine

/-- STOPPED with the pool destroyed and the flags cleared meets the invariant (10 R43; 44 R230). -/
theorem consistent_cleared {s : State} (hshaped : Shaped s) (hports : PortsAgree s) (hstate : s.state = .stopped)
    (hcause : s.errCause = none) : Consistent s.poolDestroy.clearFlags where
  shaped := { hshaped with owners := by simp }
  tags := { tagged_poolDestroy.tagsAgree (by simp) with }
  ranges := ⟨Nat.zero_le _, Nat.zero_le _, nofun, nofun, Nat.zero_le _, fun _ => rfl, fun _ => rfl, nofun⟩
  control := {
    noError := by simp [hstate]
    noCause := hcause
    receiving := by simp [hstate]
    transmitting := by simp [hstate]
    stopEvent := by simp [hstate]
    fill := by simp [hstate]
    stopped := fun _ => ⟨rfl, rfl, rfl⟩
    polls := fun _ _ => Nat.zero_le _ }
  ports := hports

theorem Shaped.slots_pos {s : State} (hs : Shaped s) : 0 < s.cfg.slots := by
  have hslots := ((Config.wellFormed_iff s.cfg).1 hs.config).1
  omega

/-- The destroyed pool with a fill slot taken from it meets the invariant in STARTING (43 R180). -/
theorem Consistent.started {s : State} {h : Nat} {m : Mode} (hs : Consistent s)
    (hfree : State.firstFree { s with state := .starting, mode := m }.poolDestroy.clearFlags = some h) :
    Consistent { State.withOwner { s with state := .starting, mode := m }.poolDestroy.clearFlags h .fill with
      fill := some h, fillPos := 0 } := by
  obtain ⟨hshaped, -, -, hcontrol, hports⟩ := hs
  have howners : ((List.replicate s.cfg.slots Owner.free).set h .fill).length = s.cfg.slots := by simp
  have htags := ((tagged_poolDestroy (s := s)).free_to_fill rfl (owner_of_firstFree hfree)).tagsAgree howners
  exact {
    shaped := { hshaped with owners := howners }
    tags := { htags with }
    ranges := ⟨Nat.zero_le _, Nat.zero_le _, nofun, nofun, Nat.zero_le _, nofun, fun _ => rfl, nofun⟩
    control := {
      noError := nofun
      noCause := hcontrol.noCause
      receiving := nofun
      transmitting := nofun
      stopEvent := ⟨nofun, nofun⟩
      fill := ⟨nofun, nofun⟩
      stopped := nofun
      polls := fun _ _ => Nat.zero_le _ }
    ports := hports }

theorem ends_startUp {s : State} {m : Mode} (hs : Consistent s) : (startUp m s).Ends False fun _ => Consistent := by
  have hroom : 0 < s.cfg.slots := hs.shaped.slots_pos
  have hfree : ∃ h, State.firstFree { s with state := .starting, mode := m }.poolDestroy.clearFlags = some h :=
    (tagged_poolDestroy (s := s)).exists_firstFree (by simpa using hroom)
  obtain ⟨h, hfree⟩ := hfree
  rw [startUp, poolAlloc, hfree]
  exact (hs.started hfree).withPort _ fun _ => nofun

/-- STOP: the stop signal and the state go together, and the polls begin at 0 (43 R182). -/
theorem Live.stopping {s : State} (hs : Live Consistent s) :
    Consistent (State.release { s.raiseStop with state := .stopping, stopPolls := 0 } (some s.cur)) := by
  obtain ⟨hshaped, htags, hranges, hcontrol, hports⟩ := hs.holds
  refine Consistent.release (s := { s.raiseStop with state := .stopping, stopPolls := 0 })
    ⟨{ hshaped with }, { htags with }, { hranges with }, ?_, hports⟩ _
  obtain ⟨h, hf, -⟩ := hs.fill_slot
  exact { hcontrol with
    noError := nofun
    receiving := nofun
    transmitting := nofun
    stopEvent := ⟨fun _ => rfl, fun _ => rfl⟩
    fill := by simp [hf]
    stopped := nofun
    polls := fun _ _ => Nat.zero_le _ }

/-- A running block enters a Ready state with the role of that state (10 R21). -/
theorem Live.withReady {s : State} {st : AdapterState} {r : Role} (hs : Live Consistent s) (hstop : s.state ≠ .stopping)
    (hst : st = .receiving ∧ r = .prx ∨ st = .transmitting ∧ r = .ptx) :
    Live Consistent { s with state := st, role := r } := by
  obtain ⟨hshaped, htags, hranges, hcontrol, hports⟩ := hs.holds
  obtain ⟨h, hf, -⟩ := hs.fill_slot
  have hevt : s.evt.stop = false := by simpa [hstop] using mt hcontrol.stopEvent.1 hstop
  refine ⟨⟨{ hshaped with }, { htags with }, { hranges with }, ?_, hports⟩, ?_, ?_⟩
  · rcases hst with ⟨rfl, rfl⟩ | ⟨rfl, rfl⟩
    all_goals exact { hcontrol with
      noError := nofun
      receiving := by simp
      transmitting := by simp
      stopEvent := by simp [hevt]
      fill := by simp [hf]
      stopped := nofun }
  all_goals rcases hst with ⟨rfl, -⟩ | ⟨rfl, -⟩ <;> simp

theorem Live.listen {s : State} (hs : Live Consistent s) (hstop : s.state ≠ .stopping) :
    Live Consistent { radioBeginListening s with state := .receiving } :=
  (hs.withReady hstop (.inl ⟨rfl, rfl⟩)).of_block rfl

theorem Live.transmit {s : State} (hs : Live Consistent s) (hstop : s.state ≠ .stopping) :
    Live Consistent { radioBecomeTx s with state := .transmitting } :=
  (hs.withReady hstop (.inr ⟨rfl, rfl⟩)).of_block rfl

theorem Live.becomeTx {s : State} (hs : Live Consistent s) (hstop : s.state = .stopping) : Live Consistent (radioBecomeTx s) := by
  obtain ⟨hshaped, htags, hranges, hcontrol, hports⟩ := hs.holds
  exact hs.of_state ⟨{ hshaped with }, { htags with }, { hranges with },
    { hcontrol with receiving := by simp [hstop], transmitting := by simp [hstop] }, hports⟩ rfl

theorem Consistent.withPolls {s : State} {n : Nat} (hs : Consistent s) (hn : ∀ l ∈ s.cfg.stopPollLimit, n ≤ l) :
    Consistent { s with stopPolls := n } :=
  ⟨{ hs.shaped with }, { hs.tags with }, { hs.ranges with }, { hs.control with polls := hn }, hs.ports⟩

/-- FINALIZE destroys the pool and clears the flags (44 R230). -/
theorem Consistent.finalize {s : State} (hs : Consistent s) : Consistent (finalize s) :=
  consistent_cleared (s := { s with state := .stopped }) { hs.shaped with } hs.ports rfl hs.control.noCause

theorem freshLens_le {epoch slots n : Nat} (hn : n ∈ freshLens epoch slots) : n ≤ 32 := by
  obtain ⟨h, -, rfl⟩ := List.mem_map.1 hn
  exact Nat.le_of_lt_succ (Config.freeLen epoch h).isLt

@[simp] theorem freshLens_length (epoch slots : Nat) : (freshLens epoch slots).length = slots := by simp [freshLens]

theorem Consistent.afterRst {s : State} (hs : Consistent s) : Consistent s.afterRst := by
  refine consistent_cleared (s := s.afterRst) ?_ (fun pt hpt hb => ?_) rfl rfl
  · exact {
      config := hs.shaped.config
      owners := List.length_replicate
      lens := freshLens_length _ _
      lenBound := fun n => freshLens_le
      ports := (List.length_map _).trans hs.shaped.ports }
  · obtain ⟨pt', -, rfl⟩ := List.mem_map.1 hpt
    cases hb

theorem consistent_powerOn {c : Config} (hc : c.wellFormed = true) : Consistent (State.powerOn c) := by
  refine consistent_cleared (s := State.powerOn c) ?_ (fun pt hpt hb => ?_) rfl rfl
  · exact {
      config := hc
      owners := List.length_replicate
      lens := List.length_replicate
      lenBound := fun n hn => (List.eq_of_mem_replicate hn) ▸ Nat.zero_le _
      ports := List.length_replicate }
  · rw [List.eq_of_mem_replicate hpt] at hb
    cases hb

/-- The invariant of spec 10 is kept by every operation of a step, and none of them ends in a fault. -/
theorem consistent_stepInvariant : StepInvariant False Consistent where
  block := Consistent.of_block
  withPort hs hx := hs.withPort _ hx
  error := nofun
  append := live_append
  flush := live_flush
  adopt := live_adopt
  consume := live_consume
  start hs _ := ends_startUp hs
  stop hs _ := hs.stopping
  reset hs herr := absurd herr hs.control.noError
  rst := Consistent.afterRst
  listen hs hstop := hs.listen hstop
  transmit hs hstop := hs.transmit hstop
  becomeTx := Live.becomeTx
  load := live_load
  send := live_send
  poll hs hn := hs.holds.withPolls hn
  finalize hs := hs.holds.finalize

/-- Settles O50: every operation of a step keeps the invariant and none of them raises a fatal fault from it. -/
theorem consistentKept : Obligations.ConsistentKept := fun _ _ hs ht => consistent_stepInvariant.kept hs ht

end Sys2Proof.Machine
end

section
/-! The cause and the role of a state (10 R21, R23), in ERROR too (O54). -/

namespace Sys2Proof.Machine

/-- The registers that the cause and the role of a state are about. -/
def State.control (s : State) : AdapterState × Role × Option Cause := (s.state, s.role, s.errCause)

theorem CauseAgrees.of_control {s t : State} (hs : CauseAgrees s) (h : t.control = s.control) : CauseAgrees t := by
  obtain ⟨hstate, hrole, hcause⟩ : t.state = s.state ∧ t.role = s.role ∧ t.errCause = s.errCause := by
    simpa only [State.control, Prod.mk.injEq] using h
  constructor <;> simp only [hstate, hrole, hcause]
  exacts [hs.cause, hs.receiving, hs.transmitting]

theorem Live.of_control {s t : State} (hs : Live CauseAgrees s) (h : t.control = s.control) : Live CauseAgrees t :=
  hs.of_state (hs.holds.of_control h) (congrArg Prod.fst h :)

theorem control_of_block {s t : State} (h : t.block = s.block) : t.control = s.control := (congrArg State.control h :)

/-- An operation that leaves the control registers alone where it ends normally keeps their agreement. -/
theorem Live.ends_of_control {α : Type} {s : State} {r : Res α} (hs : Live CauseAgrees s)
    (h : ∀ a t, r = .ok a t → t.control = s.control) : r.Ends True fun _ => Live CauseAgrees :=
  ends_true_iff.2 fun a t hr => hs.of_control (h a t hr)

theorem control_appendFill {s t : State} {bs : List Byte} {u : Unit} (hr : appendFill bs s = .ok u t) : t.control = s.control := by
  obtain ⟨h, -, rfl⟩ := appendFill_cases hr
  rfl

theorem control_flushCore {s t : State} {u : Unit} (hr : flushCore s = .ok u t) : t.control = s.control := by
  obtain ⟨h, h', -, -, -, -, rfl⟩ := flushCore_cases hr
  rfl

theorem control_adopt {s t : State} {u : Unit} (hr : adopt s = .ok u t) : t.control = s.control := by
  obtain ⟨h, rest, -, -, rfl⟩ := adopt_cases hr
  rfl

theorem drain_ne_none_of_adopt {s t : State} {u : Unit} (hr : adopt s = .ok u t) : t.drain ≠ none := by
  obtain ⟨h, rest, -, -, rfl⟩ := adopt_cases hr
  nofun

theorem control_consume {s t : State} {k : Nat} {out : List Byte} (hr : consume k s = .ok out t) : t.control = s.control := by
  obtain ⟨h, -, -, -, -, ⟨-, -, -, rfl⟩ | ⟨-, rfl⟩⟩ := consume_cases hr <;> rfl

theorem control_txOne {kind : TxKind} {s t : State} {more : Bool} (hr : txOne kind s = .ok more t) : t.control = s.control := by
  obtain ⟨h, rest, s1, -, -, rfl, hand, -⟩ := txOne_cases hr
  have hblock := block_handOff kind ((List.range (s.lenAt h)).map fun j => s.byteAt h (0 + j)) (s.lenAt h)
    { s with txq := rest, owner := s.owner.set h .inflight }
  rw [hand] at hblock
  exact (control_of_block hblock :)

theorem control_rxLoad {h n : Nat} {s t : State} {u : Unit} (hr : rxLoad h n s = .ok u t) : t.control = s.control := by
  obtain ⟨-, -, rfl⟩ := rxLoad_cases hr
  exact (control_of_block (block_drawn s) :)

theorem causeAgrees_enterError (c : Cause) (p : Option Nat) (s : State) : CauseAgrees (enterError c p s) where
  cause := by simp
  receiving := by simp
  transmitting := by simp

theorem CauseAgrees.no_cause {s : State} (hs : CauseAgrees s) (herr : s.state ≠ .error) : s.errCause = none := hs.cause.2 herr

/-- STOPPED, STARTING and STOPPING ask for no role. -/
theorem causeAgrees_of_no_role {s : State} (hcause : s.errCause = none)
    (hstate : s.state = .stopped ∨ s.state = .starting ∨ s.state = .stopping) : CauseAgrees s := by
  rcases hstate with h | h | h <;> exact ⟨by simp [hcause, h], by simp [h], by simp [h]⟩

theorem CauseAgrees.of_startUp {s t : State} {m : Mode} {u : Unit} (hs : CauseAgrees s) (hstop : s.state = .stopped)
    (hr : startUp m s = .ok u t) : CauseAgrees t := by
  have hcause := hs.no_cause (by simp [hstop])
  obtain ⟨h, s1, ha, hk⟩ := bind_eq_ok hr
  cases hk
  rcases poolAlloc_cases .fill { s with state := .starting, mode := m }.poolDestroy.clearFlags with ⟨-, hp⟩ | ⟨h', -, hp⟩
  · rw [hp] at ha
    cases ha
  · rw [hp] at ha
    cases ha
    exact causeAgrees_of_no_role hcause (.inr (.inl rfl))

/-- The cause and the role are kept by every operation of a step, faults included. -/
theorem causeAgrees_stepInvariant : StepInvariant True CauseAgrees where
  block hs h := hs.of_control (control_of_block h)
  withPort hs _ := hs.of_control rfl
  error _ := causeAgrees_enterError
  append hs _ := hs.ends_of_control fun _ _ => control_appendFill
  flush hs _ _ := hs.ends_of_control fun _ _ => control_flushCore
  adopt hs _ _ := ends_true_iff.2 fun _ _ hr => ⟨hs.of_control (control_adopt hr), drain_ne_none_of_adopt hr⟩
  consume hs _ _ := hs.ends_of_control fun _ _ => control_consume
  start hs hstop := ends_true_iff.2 fun _ _ hr => hs.of_startUp hstop hr
  stop hs _ := causeAgrees_of_no_role (hs.holds.no_cause hs.unfaulted) (.inr (.inr rfl))
  reset _ _ := causeAgrees_of_no_role rfl (.inl rfl)
  rst _ := causeAgrees_of_no_role rfl (.inl rfl)
  listen hs _ := ⟨⟨by simp [hs.holds.no_cause hs.unfaulted], fun _ => rfl, nofun⟩, nofun, nofun⟩
  transmit hs _ := ⟨⟨by simp [hs.holds.no_cause hs.unfaulted], nofun, fun _ => rfl⟩, nofun, nofun⟩
  becomeTx hs hstop := hs.of_state (causeAgrees_of_no_role (hs.holds.no_cause hs.unfaulted) (.inr (.inr hstop))) rfl
  load hs _ _ _ _ := hs.ends_of_control fun _ _ => control_rxLoad
  send hs _ := hs.ends_of_control fun _ _ => control_txOne
  poll hs _ := hs.holds.of_control rfl
  finalize hs := causeAgrees_of_no_role (hs.holds.no_cause hs.unfaulted) (.inl rfl)

/-- Settles O54: a fault enters ERROR with its cause, and every other operation keeps the agreement. -/
theorem causeAndRoleKept : Obligations.CauseAndRoleKept := fun _ _ hs ht => causeAgrees_stepInvariant.kept hs ht

end Sys2Proof.Machine
end

section
/-! The reset values of 10 R43 (O11, O12) and the invariants right after power-on (O51). -/

namespace Sys2Proof.Machine

/-- The `RST` step makes a port idle and leaves its responses (70 R290). -/
theorem port_afterRst (s : State) (p : Nat) : s.afterRst.port p = { s.port p with busy := false } := by
  simp only [State.port, State.afterRst, List.getD, List.getElem?_map]
  cases s.ports[p]? <;> rfl

theorem ownerAt_powerOn (c : Config) (h : Nat) : (State.powerOn c).ownerAt h = .free := by
  simp only [State.ownerAt, State.powerOn, List.getD, List.getElem?_replicate]
  split <;> rfl

theorem port_powerOn (c : Config) (p : Nat) : (State.powerOn c).port p = Port.idle := by
  simp only [State.port, State.powerOn, List.getD, List.getElem?_replicate]
  split <;> rfl

theorem fullFillHeld_of_not_ready {s : State} (hstart : s.state ≠ .starting) (hr : s.ready = false) : FullFillHeld s where
  starting h := absurd h hstart
  held h := by simp [hr] at h

/-- Settles O11: each register is read off the state after the `RST` step. -/
theorem rstWritesResetValues : Obligations.RstWritesResetValues := by
  intro s
  refine ⟨s.afterRst, rfl, rfl, rfl, rfl, rfl, rfl, rfl, rfl, rfl, ⟨List.length_replicate, ?free⟩,
    ⟨freshLens_length _ _, ?lens⟩, rfl, rfl, rfl, rfl, rfl, rfl, rfl, rfl, rfl, rfl,
    ⟨List.length_map _, ?ports⟩, rfl, rfl⟩
  case free => exact fun o => List.eq_of_mem_replicate
  case lens => exact fun n => freshLens_le
  case ports => exact fun p => by simp [port_afterRst]

/-- Settles O12: each register is read off the state after power-on. -/
theorem powerOnRegisters : Obligations.PowerOnRegisters := by
  rintro c s rfl
  refine ⟨rfl, rfl, rfl, rfl, rfl, rfl, rfl, rfl, ?free, ownerAt_powerOn c, rfl, rfl, rfl, rfl, rfl, rfl, rfl, rfl, rfl, rfl,
    ⟨List.length_replicate, ?ports⟩, rfl, rfl⟩
  case free => exact List.count_replicate_self
  case ports => exact fun p => by rw [port_powerOn, Port.idle]

/-- Settles O51: power-on is STOPPED with the pool destroyed, no cell listed and no cause. -/
theorem consistentAtPowerOn : Obligations.ConsistentAtPowerOn := fun _ hc =>
  ⟨consistent_powerOn hc, List.Pairwise.nil, fullFillHeld_of_not_ready nofun rfl, causeAgrees_of_no_role rfl (.inl rfl)⟩

end Sys2Proof.Machine
end

section
/-! No run reaches a fault of the model (20 R61, R62), and the commands that only observe (20 R69). -/

namespace Sys2Proof.Machine

/-- Settles O52: no operation of a step ends in a fault from the invariant. -/
theorem noFaultFromConsistent : Obligations.NoFaultFromConsistent := by
  intro s f hs hf
  have hlead := consistent_stepInvariant.leads_step hs
  rwa [hf] at hlead

/-- AVAIL, STATS and STATUS do nothing but respond. -/
theorem respond_of_exec_observe {i : Instr} {s t : State}
    (hi : i = .avail ∨ (∃ sel, i = .stats sel) ∨ ∃ sel, i = .status sel) (ht : exec i s = .next t) :
    ∃ r v d, t = s.respond r v d := by
  obtain rfl | ⟨sel, rfl⟩ | ⟨sel, rfl⟩ := hi
  · simp only [exec, execAvail] at ht
    split at ht <;> exact ⟨_, _, _, (Host.Outcome.next.inj ht).symm⟩
  · exact ⟨_, _, _, (Host.Outcome.next.inj ht).symm⟩
  · simp only [exec, execStatus] at ht
    split at ht <;> exact ⟨_, _, _, (Host.Outcome.next.inj ht).symm⟩

/-- Settles O59: the one response is all that such a command writes. -/
theorem observeCommandFrame : Obligations.ObserveCommandFrame := by
  intro i s t hi ht
  obtain ⟨r, v, d, rfl⟩ := respond_of_exec_observe hi ht
  refine ⟨?environment, ?counters, ?control, ?flags, ?packets, ⟨r, v, d⟩, respond_ports s r v d⟩
  case environment => simp [EnvironmentSame]
  case counters => simp [CountersSame]
  case control => simp [ControlSame]
  case flags => simp [FlagsSame]
  case packets => simp [PacketsSame]

end Sys2Proof.Machine
end

section
/-! The canonical form of packet memory (log 19), from every state and where a step faults: the operations and the commands. -/

namespace Sys2Proof.Machine

/-! ### Updates that leave packet memory alone -/

@[simp] theorem withQueue_data (s : State) (q : Queue) (hs : List Nat) : (s.withQueue q hs).data = s.data := by
  cases q <;> rfl

@[simp] theorem enterError_data (c : Cause) (p : Option Nat) (s : State) : (enterError c p s).data = s.data := by
  cases p <;> rfl

/-! ### Actions -/

/-- Packet memory has the canonical form where the action ends, normally or by a fatal fault. -/
def Res.Canonical {α : Type} : Res α → Prop
  | .ok _ t | .fatal _ t => Memory.wf t.data
  | .stop _ => True

@[simp] theorem canonical_ok {α : Type} {a : α} {t : State} : (Res.ok a t).Canonical ↔ Memory.wf t.data := Iff.rfl

theorem Res.Canonical.bind {α β : Type} {r : Res α} {k : α → State → Res β} (hr : r.Canonical)
    (hk : ∀ a t, Memory.wf t.data → (k a t).Canonical) : (r.bind k).Canonical := by
  cases r with
  | ok a t => exact hk a t hr
  | fatal c t => exact hr
  | stop f => trivial

/-- The outcome is a next state with packet memory in the canonical form, or no next state. -/
abbrev LeadsCanonical (o : Host.Outcome State Fault Refusal) : Prop := Leads True (fun t => Memory.wf t.data) o

theorem Res.Canonical.endPort {r : Res Unit} (hr : r.Canonical) : LeadsCanonical r.endPort := by
  cases r with
  | ok u t => exact hr
  | fatal c t => exact (congrArg Memory.wf (enterError_data c _ t)).mpr hr
  | stop f => trivial

theorem Res.Canonical.endLoop {r : Res Unit} (hr : r.Canonical) : LeadsCanonical r.endLoop := by
  cases r with
  | ok u t => exact hr
  | fatal c t => exact (congrArg Memory.wf (enterError_data c _ t)).mpr hr
  | stop f => trivial

section

variable {s : State} (hs : Memory.wf s.data)

include hs

/-! ### The operations on slots, memory, pool and queues -/

theorem canonical_writeBytes (h i : Nat) (bs : List Byte) : (writeBytes h i bs s).Canonical := by
  cases hr : writeBytes h i bs s with
  | ok u t =>
    obtain rfl := writeBytes_cases hr
    exact Memory.writeAll_wf hs h i bs
  | fatal c t => exact absurd hr writeBytes_not_fatal
  | stop f => trivial

theorem canonical_readBytes (h i n : Nat) : (readBytes h i n s).Canonical := by
  cases hr : readBytes h i n s with
  | ok out t =>
    obtain ⟨rfl, -⟩ := readBytes_cases hr
    exact hs
  | fatal c t => exact absurd hr readBytes_not_fatal
  | stop f => trivial

theorem canonical_setLen (h n : Nat) : (setLen h n s).Canonical := by
  unfold setLen
  split
  · trivial
  · exact hs

theorem canonical_setOwner (h : Nat) (tag : Owner) : (setOwner h tag s).Canonical := by
  unfold setOwner
  split
  · trivial
  · exact hs

theorem canonical_poolAlloc (tag : Owner) : (poolAlloc tag s).Canonical := by
  rcases poolAlloc_cases tag s with ⟨-, hp⟩ | ⟨h, -, hp⟩ <;> exact hp ▸ hs

theorem canonical_poolTryAlloc (tag : Owner) : (poolTryAlloc tag s).Canonical := by
  rcases poolTryAlloc_cases tag s with ⟨-, hp⟩ | ⟨h, -, hp⟩ <;> exact hp ▸ hs

theorem canonical_poolFree (handle : Option Nat) : (poolFree handle s).Canonical := by
  rcases poolFree_cases handle s with ⟨h, -, -, -, hp⟩ | ⟨-, hp⟩ | ⟨h, -, -, -, hp⟩ <;> exact hp ▸ hs

theorem canonical_enqueue (q : Queue) (h : Nat) (tag : Owner) : (enqueue q h tag s).Canonical := by
  unfold enqueue
  split
  · exact hs
  · exact canonical_setOwner (by simpa using hs) h tag

theorem canonical_dequeue (q : Queue) (tag : Owner) : (dequeue q tag s).Canonical := by
  unfold dequeue
  split
  · exact hs
  · exact (canonical_setOwner (by simpa using hs) _ tag).bind fun _ _ ht => ht

/-! ### The caller paths (spec 41, 42) -/

theorem canonical_flushCore : (flushCore s).Canonical := by
  unfold flushCore
  split
  · trivial
  · exact (canonical_setLen hs _ _).bind fun _ _ h1 => (canonical_enqueue h1 _ _ _).bind fun _ t h2 =>
      (canonical_poolAlloc (s := { t.raiseTxp with fill := none, fillPos := 0 }) h2 _).bind fun _ _ h3 => h3

theorem canonical_flush_respond (v : Word) : ((flushCore s).bind fun _ s => .ok () (s.respond .ok v [])).Canonical :=
  (canonical_flushCore hs).bind fun _ _ ht => ht

theorem canonical_appendFill (bs : List Byte) : (appendFill bs s).Canonical := by
  unfold appendFill
  split
  · trivial
  · exact (canonical_writeBytes hs _ _ _).bind fun _ _ ht => ht

theorem canonical_putPhaseA (b : Byte) : (putPhaseA b s).Canonical := by
  refine (canonical_appendFill hs _).bind fun _ t ht => ?_
  split
  · exact ht
  split
  · exact canonical_flush_respond ht _
  · exact ht

theorem canonical_putPhaseB : (putPhaseB s).Canonical := by
  unfold putPhaseB
  split
  · exact hs
  · exact canonical_flush_respond hs _

theorem canonical_finishWrite (n : Nat) :
    (if (s.port s.cur).done = n then Res.ok () (s.respond .ok (toRval n) []) else .ok () (s.withPhase .a)).Canonical := by
  split <;> exact hs

theorem canonical_writePhaseA (n : Nat) : (writePhaseA n s).Canonical := by
  unfold writePhaseA
  split
  · exact hs
  refine (canonical_appendFill (s := s.withDone _) hs _).bind fun _ t ht => ?_
  split
  · exact ht
  split
  · exact (canonical_flushCore ht).bind fun _ _ hu => canonical_finishWrite hu n
  · exact ht

theorem canonical_writePhaseB (n : Nat) : (writePhaseB n s).Canonical := by
  refine Res.Canonical.bind ?_ fun _ _ ht => canonical_finishWrite ht n
  split
  · exact canonical_flushCore hs
  · exact hs

theorem canonical_adoptIfNone : (adoptIfNone s).Canonical := by
  unfold adoptIfNone
  split
  · exact (canonical_dequeue hs _ _).bind fun _ _ ht => ht
  · exact hs

theorem canonical_consume (k : Nat) : (consume k s).Canonical := by
  unfold consume
  split
  · trivial
  split
  · trivial
  refine (canonical_readBytes hs _ _ _).bind fun _ t ht => ?_
  simp only
  split
  · exact (canonical_poolFree (s := { t with drainPos := t.drainPos + k }) ht _).bind fun _ _ hu => hu
  · exact ht

theorem canonical_readLoop (maxN fuel : Nat) (out : List Byte) : (readLoop maxN fuel out s).Canonical := by
  induction fuel generalizing out s with
  | zero => exact hs
  | succ fuel ih =>
    unfold readLoop
    split
    · exact hs
    split
    · exact hs
    exact (canonical_adoptIfNone hs).bind fun _ _ ht => (canonical_consume ht _).bind fun _ _ hu => ih hu _

theorem canonical_startUp (m : Mode) : (startUp m s).Canonical :=
  (canonical_poolAlloc (s := State.clearFlags (State.poolDestroy { s with state := .starting, mode := m })) hs _).bind
    fun _ _ ht => ht

/-! ### The commands -/

/-- A byte-stream command writes packet memory only where its guard holds and the adapter is Ready (00 R10). -/
theorem leadsCanonical_guarded {g : Bool} {v : Word} {o : Host.Outcome State Fault Refusal} (ho : LeadsCanonical o) :
    LeadsCanonical (if !g then .next s else if !s.ready then .next (s.respond .notReady v []) else o) := by
  split
  · exact hs
  split
  · exact hs
  · exact ho

theorem leadsCanonical_exec (i : Instr) : LeadsCanonical (exec i s) := by
  cases i with
  | put b =>
    refine leadsCanonical_guarded hs ?_
    cases (s.port s.cur).phase with
    | a => exact (canonical_putPhaseA hs b).endPort
    | b => exact (canonical_putPhaseB hs).endPort
  | write n =>
    refine leadsCanonical_guarded hs ?_
    cases (s.port s.cur).phase with
    | a => exact (canonical_writePhaseA hs _).endPort
    | b => exact (canonical_writePhaseB hs _).endPort
  | flush =>
    refine leadsCanonical_guarded hs ?_
    split
    · exact hs
    · exact (canonical_flush_respond hs _).endPort
  | get =>
    refine leadsCanonical_guarded hs (Res.Canonical.endPort ?_)
    exact (canonical_adoptIfNone hs).bind fun _ _ ht => (canonical_consume ht _).bind fun _ _ hu => hu
  | read maxN =>
    refine leadsCanonical_guarded hs (Res.Canonical.endPort ?_)
    exact (canonical_readLoop hs _ _ _).bind fun _ _ ht => ht
  | start mode =>
    simp only [exec, execStart]
    split
    · exact hs
    split
    · exact hs
    · exact (canonical_startUp hs _).endPort
  | stop =>
    simp only [exec, execStop]
    split <;> exact hs
  | reset =>
    simp only [exec, execReset]
    split <;> exact hs
  | stats sel => exact hs
  | avail =>
    simp only [exec, execAvail]
    split <;> exact hs
  | status sel =>
    simp only [exec, execStatus]
    split <;> exact hs

end

end Sys2Proof.Machine
end

section
/-! The canonical form of packet memory (log 19): the event loop and the other agents. -/

namespace Sys2Proof.Machine

/-! ### Parts of the event loop that leave packet memory alone -/

@[simp] theorem radioPoll_data (b : Bool) (s : State) : (radioPoll b s).2.data = s.data := by simp [radioPoll]

@[simp] theorem radioTxEmpty_data (s : State) : (radioTxEmpty s).2.data = s.data := by simp [radioTxEmpty]

@[simp] theorem radioTxFull_data (s : State) : (radioTxFull s).2.data = s.data := by simp [radioTxFull]

@[simp] theorem radioRxPayload_data (n : Nat) (s : State) : (radioRxPayload n s).2.data = s.data := by simp [radioRxPayload]

@[simp] theorem rxLength_data (s : State) : (rxLength s).2.data = s.data := by
  unfold rxLength
  split <;> simp [radioRxLen]

@[simp] theorem handOff_data (kind : TxKind) (d : List Byte) (n : Nat) (s : State) : (handOff kind d n s).2.data = s.data := by
  rcases handOff_cases kind d n s with ⟨-, h⟩ | ⟨-, h⟩ <;> simp [h]

@[simp] theorem dropPacket_data (s : State) : (dropPacket s).2.data = s.data := by
  unfold dropPacket
  simp only
  split
  · split <;> rfl
  · rfl

@[simp] theorem retry_data (s : State) : (retry s).2.data = s.data := by
  unfold retry
  split
  · exact dropPacket_data s
  · rfl

@[simp] theorem iterSwitch_data (fellBack : Bool) (s : State) : (iterSwitch fellBack s).data = s.data := by
  unfold iterSwitch
  split <;> rfl

@[simp] theorem iterTurnaround_data (s : State) : (iterTurnaround s).data = s.data := by
  unfold iterTurnaround turnaround
  split
  · simp only
    split <;> simp
  · rfl

@[simp] theorem stopSwitch_data (s : State) : (stopSwitch s).data = s.data := by
  unfold stopSwitch
  split <;> rfl

@[simp] theorem stopPoll_data (s : State) : (stopPoll s).data = s.data := by
  unfold stopPoll
  simp only
  split <;> rfl

section

variable {s : State} (hs : Memory.wf s.data)

include hs

/-! ### The event loop (spec 44) -/

theorem canonical_rxLoad (h n : Nat) : (rxLoad h n s).Canonical :=
  (canonical_writeBytes (by simpa using hs) _ _ _).bind fun _ _ h1 =>
    (canonical_setLen h1 _ _).bind fun _ _ h2 => canonical_enqueue h2 _ _ _

theorem canonical_rxFillLoop (fuel : Nat) (avail : Bool) : (rxFillLoop fuel avail s).Canonical := by
  induction fuel generalizing avail s with
  | zero => exact hs
  | succ fuel ih =>
    have hl : Memory.wf (rxLength s).2.data := by simpa using hs
    unfold rxFillLoop
    split
    · exact hs
    split
    · exact hs
    simp only
    split
    · exact hl
    refine (canonical_poolTryAlloc hl _).bind fun slot t ht => ?_
    cases slot with
    | none => exact ht
    | some h => exact (canonical_rxLoad ht _ _).bind fun _ u hu => ih (by simpa using hu) _

theorem canonical_handleIrq : (handleIrq s).Canonical := by
  unfold handleIrq
  simp only
  generalize hr : (if (radioPoll true s).1.maxRetriesExceeded then _ else _ : Bool × State) = r
  have hkept : r.2.data = s.data := by
    subst hr
    split
    · split <;> split <;> simp
    · split <;> simp
  have h2 : Memory.wf r.2.data := hkept ▸ hs
  split
  · exact (canonical_rxFillLoop (s := r.2.countRx) h2 _ _).bind fun _ _ ht => ht
  · exact h2

theorem canonical_iterIrq (ev : Evt) : (iterIrq ev s).Canonical := by
  unfold iterIrq
  split
  · exact canonical_handleIrq hs
  · exact hs

theorem canonical_iterFetch (ev : Evt) : (iterFetch ev s).Canonical := by
  unfold iterFetch
  split
  · exact canonical_rxFillLoop (by simpa using hs) _ _
  · exact hs

theorem canonical_txOne (kind : TxKind) : (txOne kind s).Canonical :=
  (canonical_dequeue hs _ _).bind fun _ _ h1 => (canonical_readBytes h1 _ _ _).bind fun _ _ h2 =>
    (canonical_poolFree (by simpa using h2) _).bind fun _ _ h3 => h3

theorem canonical_txDrainLoop (kind : TxKind) (fuel : Nat) : (txDrainLoop kind fuel s).Canonical := by
  induction fuel generalizing s with
  | zero => exact hs
  | succ fuel ih =>
    have hf : Memory.wf (radioTxFull s).2.data := by simpa using hs
    unfold txDrainLoop
    split
    · exact hs
    simp only
    split
    · exact hf
    refine (canonical_txOne hf kind).bind fun more t ht => ?_
    split
    · exact ih ht
    · exact ht

theorem canonical_txDrain : (txDrain s).Canonical := by
  unfold txDrain
  cases s.txKind with
  | none => exact hs
  | some kind => exact canonical_txDrainLoop hs kind _

theorem canonical_elStart : (elStart s).Canonical := by
  unfold elStart
  cases s.mode <;> exact hs

theorem canonical_elIter : (elIter s).Canonical :=
  (canonical_iterIrq (s := s.consumeEvents) hs _).bind fun _ _ h1 => (canonical_iterFetch h1 _).bind fun _ _ h2 =>
    (canonical_txDrain (by simpa using h2)).bind fun _ _ h3 => by simpa using h3

theorem canonical_elStop : (elStop s).Canonical := by
  refine (canonical_txDrain (by simpa using hs)).bind fun _ t ht => ?_
  have he : Memory.wf (radioTxEmpty t).2.data := by simpa using ht
  split
  · simp only [canonical_ok]
    split
    · exact he
    · simpa using he
  · simpa using ht

/-! ### The agents (00 R8) -/

theorem leadsCanonical_elStep : LeadsCanonical (elStep s) := by
  unfold elStep
  cases s.elEnabled with
  | none => exact hs
  | some e =>
    cases e with
    | start => exact (canonical_elStart hs).endLoop
    | iter => exact (canonical_elIter hs).endLoop
    | stop => exact (canonical_elStop hs).endLoop

theorem leadsCanonical_portStep (p : Nat) : LeadsCanonical (portStep p s) := by
  unfold portStep
  split
  · cases decode (s.port p).cmd with
    | ok i => exact leadsCanonical_exec (s := { s with cur := p }) hs i
    | illegal r => exact hs
  · exact hs

theorem leadsCanonical_hostStep (p : Nat) (w : Word) (payload : List Byte) : LeadsCanonical (hostStep p w payload s) := by
  unfold hostStep
  split
  · split
    · exact hs
    · trivial
  · exact hs

theorem leadsCanonical_irqStep : LeadsCanonical (irqStep s) := by
  unfold irqStep
  split <;> exact hs

theorem leadsCanonical_takeEvent (e : Event) : LeadsCanonical (takeEvent e s) := by
  cases e with
  | port p => exact leadsCanonical_portStep hs p
  | el => exact leadsCanonical_elStep hs
  | irq => exact leadsCanonical_irqStep hs
  | host p w payload => exact leadsCanonical_hostStep hs p w payload
  | rst => exact List.Pairwise.nil

theorem leadsCanonical_step : LeadsCanonical (step s) := by
  unfold step
  split
  · exact leadsCanonical_takeEvent (by simpa using hs) _
  · trivial

end

/-- Settles O53: packet memory is written only by MemWrite, which keeps the canonical form, and emptied by `RST`. -/
theorem memoryCanonicalKept : Obligations.MemoryCanonicalKept := by
  intro s t hs ht
  have hlead := leadsCanonical_step hs
  rwa [ht] at hlead

end Sys2Proof.Machine
end

section
/-! The encoding of commands (spec 30): the operand field, the legal words, and decode against encode. -/

namespace Sys2Proof

/-! ### The operand field and the whole word (30 R80) -/

section

variable {x : BitVec 24} {k j : Nat}

theorem extractLsb'_high_eq_zero_iff (hk : k + j = 24) : x.extractLsb' k j = 0 ↔ x.toNat < 2 ^ k := by
  have hx : x.toNat < 2 ^ k * 2 ^ j := by rw [← Nat.pow_add, hk]; exact x.isLt
  rw [← BitVec.toNat_inj, BitVec.extractLsb'_toNat, Nat.shiftRight_eq_div_pow,
    Nat.mod_eq_of_lt (Nat.div_lt_of_lt_mul hx)]
  simp [Nat.div_eq_zero_iff]

theorem extractLsb'_low_toNat (hx : x.toNat < 2 ^ k) : (x.extractLsb' 0 k).toNat = x.toNat := by
  rw [BitVec.extractLsb'_toNat, Nat.shiftRight_zero, Nat.mod_eq_of_lt hx]

/-- An operand is its low bits where the others are zero. -/
theorem setWidth_extractLsb'_low (hk : k + j = 24) (hhigh : x.extractLsb' k j = 0) : (x.extractLsb' 0 k).setWidth 24 = x := by
  have hx := (extractLsb'_high_eq_zero_iff hk).1 hhigh
  apply BitVec.eq_of_toNat_eq
  rw [BitVec.toNat_setWidth, extractLsb'_low_toNat hx, Nat.mod_eq_of_lt x.isLt]

/-- START's operand constraint (30 R82). -/
theorem startOperand_iff : x.extractLsb' 2 22 = 0 ∧ x.extractLsb' 0 2 ≠ 3 ↔ x.toNat < 3 := by
  rw [extractLsb'_high_eq_zero_iff (by decide), Ne, ← BitVec.toNat_inj]
  constructor
  · rintro ⟨hx, hne⟩
    have hne3 : x.toNat ≠ 3 := by simpa [extractLsb'_low_toNat hx] using hne
    omega
  · intro hx
    have hx4 : x.toNat < 2 ^ 2 := by omega
    exact ⟨hx4, by simpa [extractLsb'_low_toNat hx4] using hx.ne⟩

/-- STATUS's operand constraint (30 R82). -/
theorem statusOperand_iff : x.extractLsb' 3 21 = 0 ∧ (x.extractLsb' 0 3).toNat ≤ 5 ↔ x.toNat < 6 := by
  rw [extractLsb'_high_eq_zero_iff (by decide)]
  constructor
  · rintro ⟨hx, hle⟩
    rw [extractLsb'_low_toNat hx] at hle
    omega
  · intro hx
    have hx8 : x.toNat < 2 ^ 3 := by omega
    exact ⟨hx8, by rw [extractLsb'_low_toNat hx8]; omega⟩

theorem operand_eq_zero_iff : x = 0 ↔ x.toNat < 1 := by
  rw [← BitVec.toNat_inj]
  simp

end

/-- A word whose reserved field is zero is made of its opcode and its operand. -/
theorem word_op_arg {w : Word} (hrsv : Word.rsv w = 0) : word (Word.op w) (Word.arg w) = w := by
  have h0 : w.toNat / 2 ^ 24 % 16 = 0 := by rw [← rsv_toNat, hrsv]; rfl
  apply BitVec.eq_of_toNat_eq
  rw [word_toNat, op_toNat, arg_toNat]
  omega

theorem word_eq_of_fields {w : Word} {op : BitVec 4} {arg : BitVec 24} (hrsv : Word.rsv w = 0)
    (hop : (Word.op w).toNat = op.toNat) (harg : arg = Word.arg w) : word op arg = w := by
  rw [harg, ← BitVec.eq_of_toNat_eq hop, word_op_arg hrsv]

/-! ### The legal words (30 R82, R83) -/

/-- The legal operands of an opcode are the numbers below this one; an opcode that is no command's has none (30 R82). -/
def operandBound : Nat → Nat
  | 1 => 256
  | 2 | 5 => 2 ^ 24
  | 3 | 4 | 6 | 8 | 9 => 1
  | 7 => 3
  | 10 => 4
  | 11 => 6
  | _ => 0

theorem exists_ok_ite_iff {c : Prop} [Decidable c] {i : Instr} {r : Reject} :
    (∃ i', (if c then Decoded.ok i else .illegal r) = .ok i') ↔ c := by
  split <;> simp [*]

/-- A word is legal where its reserved field is zero and its opcode has its operand. -/
theorem exists_decode_ok_iff {w : Word} :
    (∃ i, decode w = .ok i) ↔ Word.rsv w = 0 ∧ (Word.arg w).toNat < operandBound (Word.op w).toNat := by
  have harg := (Word.arg w).isLt
  unfold decode
  simp only
  split
  · simp_all
  rename_i hrsv
  rw [and_iff_right (not_not.1 hrsv)]
  split
  case h_1 hop => rw [hop, exists_ok_ite_iff]; exact extractLsb'_high_eq_zero_iff (by decide)
  case h_2 hop | h_5 hop => simpa [hop, operandBound] using harg
  case h_3 hop | h_4 hop | h_6 hop | h_8 hop | h_9 hop => rw [hop, exists_ok_ite_iff]; exact operand_eq_zero_iff
  case h_7 hop => rw [hop, exists_ok_ite_iff]; exact startOperand_iff
  case h_10 hop => rw [hop, exists_ok_ite_iff]; exact extractLsb'_high_eq_zero_iff (by decide)
  case h_11 hop => rw [hop, exists_ok_ite_iff]; exact statusOperand_iff
  case h_12 => simp_all [operandBound]

theorem exists_decode_illegal_iff {w : Word} : (∃ r, decode w = .illegal r) ↔ ¬ ∃ i, decode w = .ok i := by
  cases decode w <;> simp

/-! ### The statements -/

/-- Settles O1: the fields of an encoded word are the command's opcode, zero and its operand, and decode reads them back. -/
theorem decodeOfEncode : Obligations.DecodeOfEncode := by
  intro i hi
  cases i with
  | put b => simp [encode, decode, operand_low (k := 8), operand_high (k := 8) (j := 16)]
  | write n | read n => simp [encode, decode]
  | flush | get | avail | stop | reset => simp [encode, decode]
  | start mode =>
    have hmode : mode ≠ 3 := by simpa [Instr.wellFormed] using hi
    simpa [encode, decode, operand_low (k := 2), operand_high (k := 2) (j := 22)] using hmode
  | stats sel => simp [encode, decode, operand_low (k := 2), operand_high (k := 2) (j := 22)]
  | status sel =>
    have hsel : sel.toNat ≤ 5 := by simpa [Instr.wellFormed, BitVec.ule] using hi
    simpa [encode, decode, operand_low (k := 3), operand_high (k := 3) (j := 21)] using hsel

/-- Settles O2: the opcode, the operand and a zero reserved field make up the whole word. -/
theorem encodeOfDecode : Obligations.EncodeOfDecode := by
  intro w i h
  unfold decode at h
  simp only at h
  split at h
  · cases h
  rename_i hrsv
  have hword {op : BitVec 4} {arg : BitVec 24} := @word_eq_of_fields w op arg (not_not.1 hrsv)
  split at h
  case h_2 hop | h_5 hop => cases h; exact ⟨hword hop rfl, rfl⟩
  case h_12 => cases h
  all_goals
    rename_i hop
    split at h <;> cases h
    rename_i harg
  case h_3 | h_4 | h_6 | h_8 | h_9 => exact ⟨hword hop harg.symm, rfl⟩
  case h_1 | h_10 => exact ⟨hword hop (setWidth_extractLsb'_low (by decide) harg), rfl⟩
  case h_7 =>
    obtain ⟨hhigh, hmode⟩ := harg
    exact ⟨hword hop (setWidth_extractLsb'_low (by decide) hhigh), by simpa [Instr.wellFormed] using hmode⟩
  case h_11 =>
    obtain ⟨hhigh, hsel⟩ := harg
    exact ⟨hword hop (setWidth_extractLsb'_low (by decide) hhigh), by simpa [Instr.wellFormed, BitVec.ule] using hsel⟩

/-- Settles O3: a word is illegal where it is not legal, and `operandBound` is the bound of 30 R83 at each opcode. -/
theorem illegalWordsExactly : Obligations.IllegalWordsExactly := by
  intro w
  have hrsv : Word.rsv w = 0 ↔ w.toNat / 2 ^ 24 % 16 = 0 := by
    rw [← rsv_toNat, ← BitVec.toNat_inj]
    rfl
  rw [exists_decode_illegal_iff, exists_decode_ok_iff, hrsv, arg_toNat, op_toNat]
  generalize w.toNat / 2 ^ 28 = op
  by_cases hop : 1 ≤ op ∧ op ≤ 11
  · obtain ⟨hlow, hhigh⟩ := hop
    interval_cases op <;> simp [operandBound] <;> omega
  · have hbound : operandBound op = 0 := by
      unfold operandBound
      split <;> omega
    rw [hbound]
    omega

/-- Settles O4: the encoder and the decoder are run on each worked word. -/
theorem workedEncodings : Obligations.WorkedEncodings := by
  unfold Obligations.WorkedEncodings
  decide

end Sys2Proof
end

section
/-! The responses a step delivers (30 R85): how a port is answered, and what delivers nothing. -/

namespace Sys2Proof.Machine

/-! ### One port -/

/-- The slot `new` has the responses of `old`, or one more with the command of `old` completed. -/
def Port.AnsweredOnce (old new : Port) : Prop :=
  new.replies = old.replies ∨ (old.busy = true ∧ new.busy = false ∧ ∃ r, new.replies = old.replies ++ [r])

theorem Port.answeredOnce_refl (pt : Port) : pt.AnsweredOnce pt := .inl rfl

theorem Port.answeredOnce_answered {pt : Port} (hb : pt.busy = true) (r : Response) : pt.AnsweredOnce (pt.answered r) :=
  .inr ⟨hb, rfl, r, rfl⟩

theorem Port.answeredOnce_released (pt : Port) : pt.AnsweredOnce pt.released := by
  unfold Port.released
  split
  · rename_i hheld
    exact pt.answeredOnce_answered (Bool.and_eq_true_iff.1 hheld).1 _
  · exact pt.answeredOnce_refl

/-! ### All ports -/

/-- The port whose step this is, and for each port whether it is busy and the responses it has delivered. -/
def State.lines (s : State) : Nat × (Nat → Bool × List Response) := (s.cur, fun p => ((s.port p).busy, (s.port p).replies))

/-- No response is delivered and no command completed between the states. -/
abbrev Quiet (s t : State) : Prop := t.lines = s.lines

/-- At most one response is delivered on each port between the states, and only with its command completed. -/
def DeliversOnce (s t : State) : Prop := ∀ p, (s.port p).AnsweredOnce (t.port p)

theorem quiet_iff {s t : State} :
    Quiet s t ↔ t.cur = s.cur ∧ ∀ p, (t.port p).busy = (s.port p).busy ∧ (t.port p).replies = (s.port p).replies := by
  simp [Quiet, State.lines, funext_iff]

theorem Quiet.trans {s t u : State} (h : Quiet s t) (hu : Quiet t u) : Quiet s u := Eq.trans hu h

theorem Quiet.deliversOnce {s t : State} (h : Quiet s t) : DeliversOnce s t :=
  fun p => .inl ((quiet_iff.1 h).2 p).2

theorem Quiet.trans_deliversOnce {s t u : State} (h : Quiet s t) (hu : DeliversOnce t u) : DeliversOnce s u := by
  intro p
  obtain ⟨hbusy, hreplies⟩ := (quiet_iff.1 h).2 p
  simpa only [Port.AnsweredOnce, hbusy, hreplies] using hu p

/-- The command of the port whose step this is waits for its response. -/
def Awaited (s : State) : Prop := (s.port s.cur).busy = true

theorem Quiet.awaited {s t : State} (h : Quiet s t) (hs : Awaited s) : Awaited t := by
  obtain ⟨hcur, hport⟩ := quiet_iff.1 h
  rw [Awaited, (hport t.cur).1, hcur]
  exact hs

theorem port_withPort_cases (s : State) (p : Nat) (x : Port) (q : Nat) :
    (s.withPort p x).port q = s.port q ∨ q = p ∧ (s.withPort p x).port q = x := by
  by_cases hq : q = p
  · subst hq
    by_cases hlt : q < s.ports.length
    · exact .inr ⟨rfl, port_withPort_same hlt⟩
    · exact .inl (by simp [State.port, List.set_eq_of_length_le (Nat.le_of_not_lt hlt)])
  · exact .inl (port_withPort_other hq)

theorem quiet_withPort {s : State} {p : Nat} {x : Port} (hb : x.busy = (s.port p).busy)
    (hr : x.replies = (s.port p).replies) : Quiet s (s.withPort p x) := by
  refine quiet_iff.2 ⟨rfl, fun q => ?_⟩
  rcases port_withPort_cases s p x q with h | ⟨rfl, h⟩ <;> rw [h]
  · exact ⟨rfl, rfl⟩
  · exact ⟨hb, hr⟩

theorem quiet_drawn (s : State) : Quiet s s.drawn := by simp [Quiet, State.lines, State.port]

theorem quiet_chosen (s : State) : Quiet s s.chosen := by simp [Quiet, State.lines]

theorem quiet_withPhase (s : State) (ph : Phase) : Quiet s (s.withPhase ph) := quiet_withPort rfl rfl

theorem quiet_withDone (s : State) (n : Nat) : Quiet s (s.withDone n) := quiet_withPort rfl rfl

theorem deliversOnce_withPort {s : State} {p : Nat} {x : Port} (hx : (s.port p).AnsweredOnce x) :
    DeliversOnce s (s.withPort p x) := by
  intro q
  rcases port_withPort_cases s p x q with h | ⟨rfl, h⟩ <;> rw [h]
  · exact Port.answeredOnce_refl _
  · exact hx

theorem deliversOnce_respond {s : State} (hs : Awaited s) (st : Rstat) (v : Word) (d : List Byte) :
    DeliversOnce s (s.respond st v d) :=
  deliversOnce_withPort (Port.answeredOnce_answered hs _)

theorem deliversOnce_release (s : State) (keep : Option Nat) : DeliversOnce s (s.release keep) := by
  intro q
  rw [release_port]
  split
  · exact Port.answeredOnce_refl _
  · exact Port.answeredOnce_released _

/-- A release that keeps a port leaves room for that port's own response (43 R182, 60 R265). -/
theorem deliversOnce_release_respondOn {s : State} {p : Nat} (hb : (s.port p).busy = true) (r : Response) :
    DeliversOnce s ((s.release (some p)).respondOn p r) := by
  have hkept : (s.release (some p)).port p = s.port p := by rw [release_port, if_pos rfl]
  intro q
  rw [State.respondOn, hkept]
  rcases port_withPort_cases (s.release (some p)) p ((s.port p).answered r) q with h | ⟨rfl, h⟩ <;> rw [h]
  · exact deliversOnce_release s _ q
  · exact Port.answeredOnce_answered hb r

theorem deliversOnce_enterError {s : State} {port : Option Nat} (hp : ∀ p ∈ port, (s.port p).busy = true) (c : Cause) :
    DeliversOnce s (enterError c port s) := by
  cases port with
  | none => exact deliversOnce_release { s with state := .error, errCause := some c } none
  | some p =>
    have hb : (State.port { s with state := .error, errCause := some c } p).busy = true := hp p rfl
    exact deliversOnce_release_respondOn hb _

/-! ### Actions -/

/-- The action delivers nothing before its end, and ends normally with `Q` or in a fault. -/
def Res.QuietUntil {α : Type} (s : State) (Q : State → Prop) : Res α → Prop
  | .ok _ t => Q t
  | .fatal _ t => Quiet s t
  | .stop _ => True

/-- The action delivers nothing. -/
abbrev Res.Quiet {α : Type} (s : State) (r : Res α) : Prop := r.QuietUntil s (Machine.Quiet s)

@[simp] theorem quietUntil_ok {α : Type} {s t : State} {Q : State → Prop} {a : α} :
    (Res.ok a t).QuietUntil s Q ↔ Q t := Iff.rfl

theorem Res.QuietUntil.bind {α β : Type} {s : State} {Q : State → Prop} {r : Res α} {k : α → State → Res β}
    (hr : r.Quiet s) (hk : ∀ a t, Machine.Quiet s t → (k a t).QuietUntil s Q) : (r.bind k).QuietUntil s Q := by
  cases r with
  | ok a t => exact hk a t hr
  | fatal c t => exact hr
  | stop f => trivial

/-- An action is quiet whose end is, by what the laws say of each end. -/
theorem Res.quiet_of_cases {α : Type} {s : State} {r : Res α} (hok : ∀ a t, r = .ok a t → Machine.Quiet s t)
    (hfatal : ∀ c t, r = .fatal c t → Machine.Quiet s t) : r.Quiet s := by
  cases r with
  | ok a t => exact hok a t rfl
  | fatal c t => exact hfatal c t rfl
  | stop f => trivial

/-- The outcome is a next state with at most one response on each port, or no next state. -/
abbrev LeadsOnce (s : State) (o : Host.Outcome State Fault Refusal) : Prop := Leads True (DeliversOnce s) o

theorem Res.QuietUntil.endPort {s : State} {r : Res Unit} (hs : Awaited s) (hr : r.QuietUntil s (DeliversOnce s)) :
    LeadsOnce s r.endPort := by
  cases r with
  | ok u t => exact hr
  | fatal c t =>
    have hb : ∀ p ∈ some t.cur, (t.port p).busy = true := by rintro _ ⟨⟩; exact Quiet.awaited hr hs
    exact Quiet.trans_deliversOnce hr (deliversOnce_enterError hb c)
  | stop f => trivial

theorem Res.QuietUntil.endLoop {s : State} {r : Res Unit} (hr : r.Quiet s) : LeadsOnce s r.endLoop := by
  cases r with
  | ok u t => exact Quiet.deliversOnce hr
  | fatal c t => exact Quiet.trans_deliversOnce hr (deliversOnce_enterError (by simp) c)
  | stop f => trivial

/-! ### The operations on slots, memory, pool and queues deliver nothing -/

section

variable {s₀ s : State} (hs : Quiet s₀ s)

include hs

theorem quiet_writeBytes (h i : Nat) (bs : List Byte) : (writeBytes h i bs s).Quiet s₀ :=
  Res.quiet_of_cases (fun _ _ hr => by rw [writeBytes_cases hr]; exact hs)
    fun _ _ hr => absurd hr writeBytes_not_fatal

theorem quiet_readBytes (h i n : Nat) : (readBytes h i n s).Quiet s₀ :=
  Res.quiet_of_cases (fun _ _ hr => by obtain ⟨rfl, -⟩ := readBytes_cases hr; exact hs)
    fun _ _ hr => absurd hr readBytes_not_fatal

theorem quiet_setLen (h n : Nat) : (setLen h n s).Quiet s₀ :=
  Res.quiet_of_cases (fun _ _ hr => by obtain ⟨-, rfl⟩ := setLen_cases hr; exact hs)
    fun _ _ hr => absurd hr setLen_not_fatal

theorem quiet_enqueue (q : Queue) (h : Nat) (tag : Owner) : (enqueue q h tag s).Quiet s₀ := by
  refine Res.quiet_of_cases (fun _ _ hr => ?_) fun _ _ hr => ?_
  · obtain ⟨-, -, rfl⟩ := enqueue_cases hr
    cases q <;> exact hs
  · obtain ⟨-, -, rfl⟩ := enqueue_fatal hr
    exact hs

theorem quiet_dequeue (q : Queue) (tag : Owner) : (dequeue q tag s).Quiet s₀ := by
  refine Res.quiet_of_cases (fun _ _ hr => ?_) fun _ _ hr => ?_
  · obtain ⟨_, -, -, rfl⟩ := dequeue_cases hr
    cases q <;> exact hs
  · obtain ⟨-, -, rfl⟩ := dequeue_fatal hr
    exact hs

theorem quiet_poolAlloc (tag : Owner) : (poolAlloc tag s).Quiet s₀ := by
  rcases poolAlloc_cases tag s with ⟨-, ha⟩ | ⟨h, -, ha⟩ <;> rw [ha] <;> exact hs

theorem quiet_poolTryAlloc (tag : Owner) : (poolTryAlloc tag s).Quiet s₀ := by
  rcases poolTryAlloc_cases tag s with ⟨-, ha⟩ | ⟨h, -, ha⟩ <;> rw [ha] <;> exact hs

theorem quiet_poolFree (handle : Option Nat) : (poolFree handle s).Quiet s₀ := by
  rcases poolFree_cases handle s with ⟨_, -, -, -, hf⟩ | ⟨-, hf⟩ | ⟨_, -, -, -, hf⟩ <;> rw [hf] <;> exact hs

theorem quiet_flushCore : (flushCore s).Quiet s₀ := by
  refine Res.quiet_of_cases (fun _ _ hr => ?_) fun _ _ hr => ?_
  · obtain ⟨_, _, -, -, -, -, rfl⟩ := flushCore_cases hr
    exact hs
  · obtain ⟨_, -, -, ⟨-, -, rfl⟩ | ⟨-, -, rfl⟩⟩ := flushCore_fatal hr <;> exact hs

theorem quiet_appendFill (bs : List Byte) : (appendFill bs s).Quiet s₀ :=
  Res.quiet_of_cases (fun _ _ hr => by obtain ⟨_, -, rfl⟩ := appendFill_cases hr; exact hs)
    fun _ _ hr => absurd hr appendFill_not_fatal

theorem quiet_adopt : (adopt s).Quiet s₀ := by
  refine Res.quiet_of_cases (fun _ _ hr => ?_) fun _ _ hr => ?_
  · obtain ⟨_, _, -, -, rfl⟩ := adopt_cases hr
    exact hs
  · obtain ⟨-, -, rfl⟩ := adopt_fatal hr
    exact hs

theorem quiet_consume (k : Nat) : (consume k s).Quiet s₀ := by
  refine Res.quiet_of_cases (fun _ _ hr => ?_) fun _ _ hr => ?_
  · obtain ⟨_, -, -, -, -, ⟨-, -, -, rfl⟩ | ⟨-, rfl⟩⟩ := consume_cases hr <;> exact hs
  · obtain ⟨_, -, -, -, -, -, rfl⟩ := consume_fatal hr
    exact hs

theorem quiet_adoptIfNone : (adoptIfNone s).Quiet s₀ := by
  unfold adoptIfNone
  split
  · exact quiet_adopt hs
  · exact hs

theorem quiet_readLoop (maxN fuel : Nat) (out : List Byte) : (readLoop maxN fuel out s).Quiet s₀ := by
  induction fuel generalizing out s with
  | zero => exact hs
  | succ fuel ih =>
    unfold readLoop
    split
    · exact hs
    split
    · exact hs
    exact (quiet_adoptIfNone hs).bind fun _ _ ht => (quiet_consume ht _).bind fun _ _ hu => ih hu _

theorem quiet_rxLoad (h n : Nat) : (rxLoad h n s).Quiet s₀ := by
  have hq : Quiet s₀ (radioRxPayload n s).2 := hs.trans (quiet_drawn s)
  exact (quiet_writeBytes hq _ _ _).bind fun _ _ h1 => (quiet_setLen h1 _ _).bind fun _ _ h2 => quiet_enqueue h2 _ _ _

theorem deliversOnce_withPhase (ph : Phase) : DeliversOnce s₀ (s.withPhase ph) :=
  (hs.trans (quiet_withPhase s ph)).deliversOnce

end

end Sys2Proof.Machine
end

section
/-! The responses of the commands of a port: each command delivers at most its own, and with it is completed (30 R85). -/

namespace Sys2Proof.Machine

section

variable {s₀ s : State} (h₀ : Awaited s₀) (hs : Quiet s₀ s)

include h₀ hs

theorem deliversOnce_respond_of_quiet (st : Rstat) (v : Word) (d : List Byte) : DeliversOnce s₀ (s.respond st v d) :=
  hs.trans_deliversOnce (deliversOnce_respond (hs.awaited h₀) st v d)

theorem once_flush_respond (v : Word) :
    ((flushCore s).bind fun _ s => .ok () (s.respond .ok v [])).QuietUntil s₀ (DeliversOnce s₀) :=
  (quiet_flushCore hs).bind fun _ _ ht => deliversOnce_respond_of_quiet h₀ ht _ _ _

theorem once_putPhaseA (b : Byte) : (putPhaseA b s).QuietUntil s₀ (DeliversOnce s₀) := by
  refine (quiet_appendFill hs _).bind fun _ t ht => ?_
  split
  · exact deliversOnce_respond_of_quiet h₀ ht _ _ _
  split
  · exact once_flush_respond h₀ ht _
  · exact deliversOnce_withPhase ht _

theorem once_putPhaseB : (putPhaseB s).QuietUntil s₀ (DeliversOnce s₀) := by
  unfold putPhaseB
  split
  · exact deliversOnce_respond_of_quiet h₀ hs _ _ _
  · exact once_flush_respond h₀ hs _

theorem once_finishWrite (n : Nat) :
    (if (s.port s.cur).done = n then Res.ok () (s.respond .ok (toRval n) []) else .ok () (s.withPhase .a)).QuietUntil s₀
      (DeliversOnce s₀) := by
  split
  · exact deliversOnce_respond_of_quiet h₀ hs _ _ _
  · exact deliversOnce_withPhase hs _

theorem once_writePhaseA (n : Nat) : (writePhaseA n s).QuietUntil s₀ (DeliversOnce s₀) := by
  unfold writePhaseA
  split
  · exact deliversOnce_respond_of_quiet h₀ hs _ _ _
  refine (quiet_appendFill (hs.trans (quiet_withDone s _)) _).bind fun _ t ht => ?_
  split
  · exact deliversOnce_respond_of_quiet h₀ ht _ _ _
  split
  · exact (quiet_flushCore ht).bind fun _ _ hu => once_finishWrite h₀ hu n
  · exact deliversOnce_withPhase ht _

theorem once_writePhaseB (n : Nat) : (writePhaseB n s).QuietUntil s₀ (DeliversOnce s₀) := by
  refine Res.QuietUntil.bind ?_ fun _ _ ht => once_finishWrite h₀ ht n
  split
  · exact quiet_flushCore hs
  · exact hs

end

section

variable {s : State} (hs : Awaited s)

include hs

theorem leadsOnce_respond (st : Rstat) (v : Word) (d : List Byte) : LeadsOnce s (.next (s.respond st v d)) :=
  deliversOnce_respond hs st v d

/-- A byte-stream command is held, or answered NOTREADY, or runs (00 R10). -/
theorem leadsOnce_guarded {g : Bool} {v : Word} {o : Host.Outcome State Fault Refusal} (ho : LeadsOnce s o) :
    LeadsOnce s (if !g then .next s else if !s.ready then .next (s.respond .notReady v []) else o) := by
  split
  · exact Quiet.deliversOnce rfl
  split
  · exact leadsOnce_respond hs _ _ _
  · exact ho

theorem once_startUp (m : Mode) : (startUp m s).QuietUntil s (DeliversOnce s) := by
  have hclear : Quiet s (State.clearFlags (State.poolDestroy { s with state := .starting, mode := m })) := rfl
  refine (quiet_poolAlloc hclear _).bind fun h t ht => ?_
  exact deliversOnce_respond_of_quiet (s := { t with fill := some h, fillPos := 0 }) hs ht _ _ _

theorem leadsOnce_stop : LeadsOnce s (execStop s) := by
  unfold execStop
  split
  · exact leadsOnce_respond hs _ _ _
  · exact deliversOnce_release_respondOn (s := { s.raiseStop with state := .stopping, stopPolls := 0 }) hs _

theorem leadsOnce_exec (i : Instr) : LeadsOnce s (exec i s) := by
  have hq : Quiet s s := rfl
  cases i with
  | put b =>
    refine leadsOnce_guarded hs ?_
    cases (s.port s.cur).phase with
    | a => exact (once_putPhaseA hs hq b).endPort hs
    | b => exact (once_putPhaseB hs hq).endPort hs
  | write n =>
    refine leadsOnce_guarded hs ?_
    cases (s.port s.cur).phase with
    | a => exact (once_writePhaseA hs hq _).endPort hs
    | b => exact (once_writePhaseB hs hq _).endPort hs
  | flush =>
    refine leadsOnce_guarded hs ?_
    split
    · exact leadsOnce_respond hs _ _ _
    · exact (once_flush_respond hs hq _).endPort hs
  | get =>
    refine leadsOnce_guarded hs (Res.QuietUntil.endPort hs ?_)
    exact (quiet_adoptIfNone hq).bind fun _ _ ht => (quiet_consume ht _).bind fun _ _ hu =>
      deliversOnce_respond_of_quiet hs hu _ _ _
  | read maxN =>
    refine leadsOnce_guarded hs (Res.QuietUntil.endPort hs ?_)
    exact (quiet_readLoop hq _ _ _).bind fun _ _ ht => deliversOnce_respond_of_quiet hs ht _ _ _
  | start mode =>
    simp only [exec, execStart]
    split
    · exact leadsOnce_respond hs _ _ _
    split
    · exact leadsOnce_respond hs _ _ _
    · exact (once_startUp hs _).endPort hs
  | stop => exact leadsOnce_stop hs
  | reset =>
    simp only [exec, execReset]
    split
    · exact leadsOnce_respond hs _ _ _
    · have hclear : Quiet s (State.clearFlags (State.poolDestroy { s with state := .stopped, errCause := none })) := rfl
      exact deliversOnce_respond_of_quiet hs hclear _ _ _
  | stats sel => exact leadsOnce_respond hs _ _ _
  | avail =>
    simp only [exec, execAvail]
    split <;> exact leadsOnce_respond hs _ _ _
  | status sel =>
    simp only [exec, execStatus]
    split <;> exact leadsOnce_respond hs _ _ _

end

end Sys2Proof.Machine
end

section
/-! The responses of a step (30 R85): the event loop delivers none but by Error entry, and each agent at most one on a port. -/

namespace Sys2Proof.Machine

/-! ### Parts of the event loop that deliver nothing -/

theorem quiet_radioPoll (b : Bool) (s : State) : Quiet s (radioPoll b s).2 := quiet_drawn s

theorem quiet_radioTxEmpty (s : State) : Quiet s (radioTxEmpty s).2 := quiet_drawn s

theorem quiet_radioTxFull (s : State) : Quiet s (radioTxFull s).2 := quiet_drawn s

theorem quiet_rxLength (s : State) : Quiet s (rxLength s).2 := by
  unfold rxLength
  split
  · exact quiet_drawn s
  · rfl

theorem quiet_handOff (kind : TxKind) (d : List Byte) (n : Nat) (s : State) : Quiet s (handOff kind d n s).2 := by
  cases kind with
  | send => exact quiet_drawn s
  | ack => rfl

theorem quiet_dropPacket (s : State) : Quiet s (dropPacket s).2 := by
  unfold dropPacket
  simp only
  split
  · split <;> rfl
  · rfl

theorem quiet_retry (s : State) : Quiet s (retry s).2 := by
  unfold retry
  split
  · exact quiet_dropPacket s
  · rfl

theorem quiet_iterSwitch (fellBack : Bool) (s : State) : Quiet s (iterSwitch fellBack s) := by
  unfold iterSwitch
  split <;> rfl

theorem quiet_iterTurnaround (s : State) : Quiet s (iterTurnaround s) := by
  unfold iterTurnaround turnaround
  split
  · simp only
    split <;> exact quiet_radioTxEmpty s
  · rfl

theorem quiet_stopSwitch (s : State) : Quiet s (stopSwitch s) := by
  unfold stopSwitch
  split <;> rfl

theorem quiet_stopPoll (s : State) : Quiet s (stopPoll s) := by
  unfold stopPoll
  simp only
  split <;> rfl

section

variable {s₀ s : State} (hs : Quiet s₀ s)

include hs

/-! ### The event loop (spec 44) -/

theorem quiet_rxFillLoop (fuel : Nat) (avail : Bool) : (rxFillLoop fuel avail s).Quiet s₀ := by
  induction fuel generalizing avail s with
  | zero => exact hs
  | succ fuel ih =>
    have hl : Quiet s₀ (rxLength s).2 := hs.trans (quiet_rxLength s)
    unfold rxFillLoop
    split
    · exact hs
    split
    · exact hs
    simp only
    split
    · exact hl
    refine (quiet_poolTryAlloc hl _).bind fun slot t ht => ?_
    cases slot with
    | none => exact ht
    | some h => exact (quiet_rxLoad ht _ _).bind fun _ u hu => ih (hu.trans (quiet_radioPoll _ u)) _

theorem quiet_handleIrq : (handleIrq s).Quiet s₀ := by
  have hp : Quiet s₀ (radioPoll true s).2 := hs.trans (quiet_radioPoll true s)
  unfold handleIrq
  simp only
  generalize hs1 : (if (radioPoll true s).1.dataSent then _ else _ : State) = s1
  have h1 : Quiet s₀ s1 := by
    subst hs1
    split <;> exact hp
  generalize hr : (if (radioPoll true s).1.maxRetriesExceeded then _ else _ : Bool × State) = r
  have h2 : Quiet s₀ r.2 := by
    subst hr
    split
    · split
      · exact h1.trans (quiet_retry s1.countMaxRt)
      · exact h1
    · exact h1
  split
  · exact (quiet_rxFillLoop (s := r.2.countRx) h2 _ _).bind fun _ _ ht => ht
  · exact h2

theorem quiet_iterIrq (ev : Evt) : (iterIrq ev s).Quiet s₀ := by
  unfold iterIrq
  split
  · exact quiet_handleIrq hs
  · exact hs

theorem quiet_iterFetch (ev : Evt) : (iterFetch ev s).Quiet s₀ := by
  unfold iterFetch
  split
  · exact quiet_rxFillLoop (hs.trans (quiet_radioPoll false s)) _ _
  · exact hs

theorem quiet_txOne (kind : TxKind) : (txOne kind s).Quiet s₀ :=
  (quiet_dequeue hs _ _).bind fun _ _ h1 => (quiet_readBytes h1 _ _ _).bind fun _ t h2 =>
    (quiet_poolFree (h2.trans (quiet_handOff kind _ _ t)) _).bind fun _ _ h3 => h3

theorem quiet_txDrainLoop (kind : TxKind) (fuel : Nat) : (txDrainLoop kind fuel s).Quiet s₀ := by
  induction fuel generalizing s with
  | zero => exact hs
  | succ fuel ih =>
    have hf : Quiet s₀ (radioTxFull s).2 := hs.trans (quiet_radioTxFull s)
    unfold txDrainLoop
    split
    · exact hs
    simp only
    split
    · exact hf
    refine (quiet_txOne hf kind).bind fun more t ht => ?_
    split
    · exact ih ht
    · exact ht

theorem quiet_txDrain : (txDrain s).Quiet s₀ := by
  unfold txDrain
  cases s.txKind with
  | none => exact hs
  | some kind => exact quiet_txDrainLoop hs kind _

theorem quiet_elStart : (elStart s).Quiet s₀ := by
  unfold elStart
  cases s.mode <;> exact hs

theorem quiet_elIter : (elIter s).Quiet s₀ :=
  (quiet_iterIrq (s := s.consumeEvents) hs _).bind fun _ _ h1 => (quiet_iterFetch h1 _).bind fun _ t h2 =>
    (quiet_txDrain (h2.trans (quiet_iterSwitch _ t))).bind fun _ u h3 => h3.trans (quiet_iterTurnaround u)

theorem quiet_elStop : (elStop s).Quiet s₀ := by
  refine (quiet_txDrain (hs.trans (quiet_stopSwitch s))).bind fun _ t ht => ?_
  have he : Quiet s₀ (radioTxEmpty t).2 := ht.trans (quiet_radioTxEmpty t)
  split
  · simp only [quietUntil_ok]
    split
    · exact he
    · exact he.trans (quiet_stopPoll _)
  · exact ht.trans (quiet_stopPoll t)

end

/-! ### The agents (00 R8) -/

section

variable (s : State)

theorem leadsOnce_elStep : LeadsOnce s (elStep s) := by
  have hq : Quiet s s := rfl
  unfold elStep
  cases s.elEnabled with
  | none => exact hq.deliversOnce
  | some e =>
    cases e with
    | start => exact (quiet_elStart hq).endLoop
    | iter => exact (quiet_elIter hq).endLoop
    | stop => exact (quiet_elStop hq).endLoop

theorem leadsOnce_portStep (p : Nat) : LeadsOnce s (portStep p s) := by
  unfold portStep
  split
  · rename_i hif
    obtain ⟨-, hb⟩ := hif
    cases decode (s.port p).cmd with
    | ok i => exact leadsOnce_exec (s := { s with cur := p }) hb i
    | illegal r => exact leadsOnce_respond (s := { s with cur := p }) hb _ _ _
  · exact Quiet.deliversOnce rfl

theorem leadsOnce_hostStep (p : Nat) (w : Word) (payload : List Byte) : LeadsOnce s (hostStep p w payload s) := by
  unfold hostStep
  split
  · split
    · exact deliversOnce_withPort (.inl rfl)
    · trivial
  · exact Quiet.deliversOnce rfl

theorem leadsOnce_irqStep : LeadsOnce s (irqStep s) := by
  unfold irqStep
  split <;> exact Quiet.deliversOnce rfl

theorem leadsOnce_rstStep : LeadsOnce s (rstStep s) := fun p => by
  rw [port_afterRst]
  exact .inl rfl

theorem leadsOnce_takeEvent (e : Event) : LeadsOnce s (takeEvent e s) := by
  cases e with
  | port p => exact leadsOnce_portStep s p
  | el => exact leadsOnce_elStep s
  | irq => exact leadsOnce_irqStep s
  | host p w payload => exact leadsOnce_hostStep s p w payload
  | rst => exact leadsOnce_rstStep s

end

/-- Settles O48: the action of a step delivers nothing before its end, and its end delivers at most one response on each port, only
where the port is busy. -/
theorem oneResponsePerCommand : Obligations.OneResponsePerCommand := by
  intro s t p ht
  by_cases hc : s.cfg.wellFormed = true
  · have hlead := leadsOnce_takeEvent s.chosen s.nextEvent
    rw [← step_of_wellFormed hc, ht] at hlead
    exact Quiet.trans_deliversOnce (quiet_chosen s) hlead p
  · rw [step_of_not_wellFormed hc] at ht
    cases ht

end Sys2Proof.Machine
end

section
/-! The pool (spec 40): PoolAlloc and PoolFree (R112, R114), and every slot counted once by its tag (R117). -/

namespace Sys2Proof.Machine

/-! ### PoolAlloc and PoolFree (40 R112, R114) -/

section

variable {s : State} {tag : Owner}

theorem poolAlloc_of_empty (h0 : s.freeCount = 0) : poolAlloc tag s = .fatal .poolExhausted s := by
  rcases poolAlloc_cases tag s with ⟨-, ha⟩ | ⟨h, hf, -⟩
  · exact ha
  · rw [firstFree_none_iff.2 h0] at hf
    cases hf

theorem poolAlloc_of_free (hl : s.owner.length = s.cfg.slots) (h0 : s.freeCount ≠ 0) :
    ∃ h, h < s.cfg.slots ∧ s.ownerAt h = .free ∧ (∀ k < h, s.ownerAt k ≠ .free)
      ∧ poolAlloc tag s = .ok h (s.withOwner h tag) := by
  rcases poolAlloc_cases tag s with ⟨h0', -⟩ | ⟨h, hf, ha⟩
  · exact absurd h0' h0
  · obtain ⟨hlt, hfree, hlow⟩ := firstFree_spec hf
    exact ⟨h, hl ▸ hlt, hfree, hlow, ha⟩

theorem poolFree_some (h : Nat) (s : State) :
    poolFree (some h) s =
      if s.cfg.slots ≤ h then .fatal .foreignHandle s
      else if s.ownerAt h = .free then .fatal .doubleFree s
      else .ok () (s.withOwner h .free) := by
  simp only [poolFree, Nat.not_lt]

/-! ### Every slot is counted once, by its tag (40 R117) -/

/-- A tag other than FREE stands on as many slots as the registers reference with it. -/
theorem Tagged.count_owner (hs : Tagged s) (htag : tag ≠ .free) : s.owner.count tag = (s.refs tag).length := by
  obtain ⟨honce, hmem⟩ := hs tag htag
  have hperm : (s.owner.idxsOf tag).Perm (s.refs tag) :=
    (List.perm_ext_iff_of_nodup List.nodup_idxsOf honce).2 fun h => by
      rw [hmem, List.mem_idxsOf_iff_exists_getElem_pos]
      simp [List.getElem?_eq_some_iff]
  rw [← hperm.length_eq, List.length_idxsOf]

/-- The tags share out the slots. -/
theorem sum_count_owner (l : List Owner) :
    l.count .free + l.count .fill + l.count .drain + l.count .txq + l.count .rxq + l.count .inflight + l.count .loading
      = l.length := by
  induction l with
  | nil => rfl
  | cons tag l ih => cases tag <;> simp [← ih] <;> omega

/-- The fill slot and the drain slot are each one reference or none. -/
theorem length_toList_eq_toNat_isSome (o : Option Nat) : o.toList.length = o.isSome.toNat := by
  cases o <;> rfl

end

/-! ### The statements -/

/-- Settles O33. -/
theorem poolAllocAndFree : Obligations.PoolAllocAndFree := fun s _ hl =>
  ⟨poolAlloc_of_empty, poolAlloc_of_free hl, rfl, fun h => poolFree_some h s⟩

/-- Settles O56: the slots are counted by their tags, and each tag but FREE by the references with it. -/
theorem poolConserved : Obligations.PoolConserved := by
  intro s hs
  have htagged : Tagged s := hs.tags.tagged hs.shaped.owners
  have hfill : s.owner.count .fill = s.fill.isSome.toNat :=
    (htagged.count_owner (by decide)).trans (length_toList_eq_toNat_isSome s.fill)
  have hdrain : s.owner.count .drain = s.drain.isSome.toNat :=
    (htagged.count_owner (by decide)).trans (length_toList_eq_toNat_isSome s.drain)
  have htxq : s.owner.count .txq = s.txq.length := htagged.count_owner (by decide)
  have hrxq : s.owner.count .rxq = s.rxq.length := htagged.count_owner (by decide)
  rw [State.freeCount, ← hfill, ← hdrain, ← htxq, ← hrxq, sum_count_owner, hs.shaped.owners]

end Sys2Proof.Machine
end

section
/-! The event loop outside STOPPING (spec 44), for a predicate that only its two moves of a packet can affect: a packet loaded from
the radio (R217) and a packet handed to the radio (R218). -/

namespace Sys2Proof.Machine

/-! ### What moves no byte -/

/-- The state with every register cleared that the event loop writes without moving a packet. -/
def State.cargo (s : State) : State :=
  { s with
    state := .stopped, role := .prx, evt := {}, reuse := false, rxdef := false, cntIrq := 0, cntSent := 0, cntMaxRt := 0
    cntRx := 0, rtrace := [], answers := [], draws := 0 }

/-- `STATE` stays or becomes Ready. -/
def StaysOrReady (s t : State) : Prop := t.state = s.state ∨ t.ready = true

theorem StaysOrReady.trans {s t u : State} (h : StaysOrReady s t) (hu : StaysOrReady t u) : StaysOrReady s u := by
  rcases hu with hu | hu
  · rcases h with h | h
    · exact .inl (hu.trans h)
    · exact .inr (by simpa only [State.ready, hu] using h)
  · exact .inr hu

/-- No packet moves between the states, and no byte between the block and the radio; `STATE` stays or becomes Ready. -/
structure NoBytes (s t : State) : Prop where
  cargo : t.cargo = s.cargo
  state : StaysOrReady s t
  trace : ∃ new, t.rtrace = s.rtrace ++ new ∧ ∀ x ∈ new, x.handed = [] ∧ x.received = []

theorem noBytes_of_trace_eq {s t : State} (hcargo : t.cargo = s.cargo) (hstate : t.state = s.state)
    (htrace : t.rtrace = s.rtrace) : NoBytes s t :=
  ⟨hcargo, .inl hstate, [], by simp [htrace], nofun⟩

theorem noBytes_refl (s : State) : NoBytes s s := noBytes_of_trace_eq rfl rfl rfl

theorem NoBytes.trans {s t u : State} (h : NoBytes s t) (hu : NoBytes t u) : NoBytes s u := by
  obtain ⟨new, htrace, hnew⟩ := h.trace
  obtain ⟨new', htrace', hnew'⟩ := hu.trace
  exact ⟨hu.cargo.trans h.cargo, h.state.trans hu.state, new ++ new', by rw [htrace', htrace, List.append_assoc],
    fun x hx => (List.mem_append.1 hx).elim (hnew x) (hnew' x)⟩

@[simp] theorem cargo_drawn (s : State) : s.drawn.cargo = s.cargo := by simp [State.cargo]

theorem noBytes_traced {s t : State} {x : RadioTxn} (hcargo : t.cargo = s.cargo) (hstate : StaysOrReady s t)
    (htrace : t.rtrace = s.rtrace ++ [x]) (hhanded : x.handed = []) (hreceived : x.received = []) : NoBytes s t :=
  ⟨hcargo, hstate, [x], htrace, by simpa using ⟨hhanded, hreceived⟩⟩

theorem noBytes_drawn_traced {x : RadioTxn} (s : State) (hhanded : x.handed = []) (hreceived : x.received = []) :
    NoBytes s (s.drawn.traced x) :=
  noBytes_traced (cargo_drawn s) (.inl (drawn_state s)) (by rw [traced_rtrace, drawn_rtrace]) hhanded hreceived

theorem noBytes_radioPoll (b : Bool) (s : State) : NoBytes s (radioPoll b s).2 := noBytes_drawn_traced s rfl rfl

theorem noBytes_radioTxFull (s : State) : NoBytes s (radioTxFull s).2 := noBytes_drawn_traced s rfl rfl

theorem noBytes_radioTxEmpty (s : State) : NoBytes s (radioTxEmpty s).2 := noBytes_drawn_traced s rfl rfl

theorem noBytes_rxLength (s : State) : NoBytes s (rxLength s).2 := by
  unfold rxLength
  split
  · exact noBytes_drawn_traced s rfl rfl
  · exact noBytes_refl s

theorem noBytes_listen (s : State) : NoBytes s { radioBeginListening s with state := .receiving } :=
  noBytes_traced rfl (.inr rfl) rfl rfl rfl

theorem noBytes_transmit (s : State) : NoBytes s { radioBecomeTx s with state := .transmitting } :=
  noBytes_traced rfl (.inr rfl) rfl rfl rfl

theorem noBytes_dropPacket (s : State) : NoBytes s (dropPacket s).2 := by
  have hr : NoBytes s (s.withReuse false) := noBytes_of_trace_eq rfl rfl rfl
  unfold dropPacket
  simp only
  split
  · refine (hr.trans (noBytes_listen _)).trans ?_
    split
    · exact noBytes_refl _
    · exact noBytes_of_trace_eq rfl rfl rfl
  · exact hr

theorem noBytes_retry (s : State) : NoBytes s (retry s).2 := by
  unfold retry
  split
  · exact noBytes_dropPacket s
  · exact noBytes_traced (x := .resend) rfl (.inl rfl) rfl rfl rfl

theorem noBytes_iterSwitch (fellBack : Bool) (s : State) : NoBytes s (iterSwitch fellBack s) := by
  unfold iterSwitch
  split
  · exact noBytes_traced (x := .becomeTx) rfl (.inr rfl) rfl rfl rfl
  · exact noBytes_refl s

theorem noBytes_iterTurnaround (s : State) : NoBytes s (iterTurnaround s) := by
  unfold iterTurnaround turnaround
  split
  · refine (noBytes_radioTxEmpty s).trans ?_
    simp only
    split
    · exact noBytes_traced (x := .beginListening) rfl (.inr rfl) rfl rfl rfl
    · exact noBytes_refl _
  · exact noBytes_refl s

theorem noBytes_elStart {s t : State} {u : Unit} (hr : elStart s = .ok u t) : NoBytes s t := by
  unfold elStart at hr
  split at hr <;> cases hr
  · exact noBytes_transmit s
  · exact noBytes_listen s
  · exact noBytes_listen s

/-! ### A predicate that the packet moves keep -/

/-- What the event loop keeps while it is not stopping: `J` is kept where no byte moves, and by both moves of a packet. -/
structure LoopInvariant (J : State → Prop) : Prop where
  quiet : ∀ {s t : State}, J s → NoBytes s t → J t
  load : ∀ {s : State} {h n : Nat}, J s → s.firstFree = some h → n ≤ Config.pkt →
    (rxLoad h n (s.withOwner h .loading)).Ends True fun _ => J
  send : ∀ {s : State} {kind : TxKind}, J s → (txOne kind s).Ends True fun _ => J

/-- TX_DRAIN keeps what its poll of the radio and its move of a packet keep. -/
theorem ends_txDrainLoop_of {J : State → Prop} (hfull : ∀ s, J s → J (radioTxFull s).2)
    (hsend : ∀ {kind s}, J s → (txOne kind s).Ends True fun _ => J) {kind : TxKind} {fuel : Nat} {s : State} (hs : J s) :
    (txDrainLoop kind fuel s).Ends True fun _ => J := by
  induction fuel generalizing s with
  | zero => exact hs
  | succ fuel ih =>
    unfold txDrainLoop
    split
    · exact hs
    simp only
    split
    · exact hfull s hs
    refine (hsend (hfull s hs)).bind fun more t ht => ?_
    split
    · exact ih ht
    · exact ht

theorem ends_txDrain_of {J : State → Prop} (hfull : ∀ s, J s → J (radioTxFull s).2)
    (hsend : ∀ {kind s}, J s → (txOne kind s).Ends True fun _ => J) {s : State} (hs : J s) :
    (txDrain s).Ends True fun _ => J := by
  unfold txDrain
  cases s.txKind with
  | none => exact hs
  | some kind => exact ends_txDrainLoop_of hfull hsend hs

namespace LoopInvariant

variable {J : State → Prop} {s : State} (K : LoopInvariant J)

include K

theorem quiet_of_cargo {t : State} (hs : J s) (hcargo : t.cargo = s.cargo) (hstate : t.state = s.state)
    (htrace : t.rtrace = s.rtrace) : J t :=
  K.quiet hs (noBytes_of_trace_eq hcargo hstate htrace)

theorem ends_rxFillLoop {fuel : Nat} {avail : Bool} (hs : J s) : (rxFillLoop fuel avail s).Ends True fun _ => J := by
  induction fuel generalizing avail s with
  | zero => exact hs
  | succ fuel ih =>
    have hl : J (rxLength s).2 := K.quiet hs (noBytes_rxLength s)
    unfold rxFillLoop
    split
    · exact K.quiet_of_cargo hs rfl rfl rfl
    split
    · exact K.quiet_of_cargo hs rfl rfl rfl
    simp only
    split
    · exact K.quiet_of_cargo hl rfl rfl rfl
    rename_i hlen
    rcases poolTryAlloc_cases .loading (rxLength s).2 with ⟨-, ha⟩ | ⟨h, hfree, ha⟩ <;> rw [ha, bind_ok]
    · exact K.quiet_of_cargo hl rfl rfl rfl
    · exact (K.load hl hfree (Nat.le_of_not_lt (not_or.1 hlen).2)).bind fun _ t ht => ih (K.quiet ht (noBytes_radioPoll false t))

theorem ends_handleIrq (hs : J s) : (handleIrq s).Ends True fun _ => J := by
  have hp : J (radioPoll true s).2 := K.quiet hs (noBytes_radioPoll true s)
  unfold handleIrq
  simp only
  generalize hs1 : (if (radioPoll true s).1.dataSent then _ else _ : State) = s1
  have h1 : J s1 := by
    subst hs1
    split
    · exact K.quiet_of_cargo hp rfl rfl rfl
    · exact hp
  have hc : J s1.countMaxRt := K.quiet_of_cargo h1 rfl rfl rfl
  generalize hr : (if (radioPoll true s).1.maxRetriesExceeded then _ else _ : Bool × State) = r
  have h2 : J r.2 := by
    subst hr
    split
    · split
      · exact K.quiet hc (noBytes_retry _)
      · exact hc
    · exact h1
  split
  · exact (K.ends_rxFillLoop (s := r.2.countRx) (K.quiet_of_cargo h2 rfl rfl rfl)).bind fun _ _ ht => ht
  · exact h2

theorem ends_iterIrq {ev : Evt} (hs : J s) : (iterIrq ev s).Ends True fun _ => J := by
  unfold iterIrq
  split
  · exact K.ends_handleIrq hs
  · exact hs

theorem ends_iterFetch {ev : Evt} (hs : J s) : (iterFetch ev s).Ends True fun _ => J := by
  unfold iterFetch
  split
  · exact K.ends_rxFillLoop (K.quiet hs (noBytes_radioPoll false s))
  · exact hs

theorem ends_txDrain (hs : J s) : (txDrain s).Ends True fun _ => J :=
  ends_txDrain_of (fun s hs => K.quiet hs (noBytes_radioTxFull s)) K.send hs

theorem ends_elIter (hs : J s) : (elIter s).Ends True fun _ => J :=
  (K.ends_iterIrq (s := s.consumeEvents) (K.quiet_of_cargo hs rfl rfl rfl)).bind fun _ _ h1 =>
    (K.ends_iterFetch h1).bind fun _ t h2 =>
      (K.ends_txDrain (K.quiet h2 (noBytes_iterSwitch _ t))).bind fun _ u h3 => K.quiet h3 (noBytes_iterTurnaround u)

/-- A step of the event loop outside STOPPING keeps `J`, or enters ERROR. -/
theorem kept_or_error {t : State} (hs : J s) (hstop : s.state ≠ .stopping) (ht : elStep s = .next t) :
    J t ∨ t.state = .error := by
  have hend {r : Res Unit} (hr : r.Ends True fun _ => J) (ht : r.endLoop = .next t) : J t ∨ t.state = .error := by
    rcases endLoop_cases ht with ⟨u, hu⟩ | ⟨c, s', -, rfl⟩
    · exact .inl (ends_true_iff.1 hr u t hu)
    · exact .inr (enterError_state c none s')
  unfold elStep State.elEnabled at ht
  cases hst : s.state with
  | stopping => exact absurd hst hstop
  | stopped | error =>
    simp only [hst] at ht
    cases ht
    exact .inl hs
  | starting =>
    simp only [hst] at ht
    exact hend (ends_true_iff.2 fun _ _ hr => K.quiet hs (noBytes_elStart hr)) ht
  | receiving | transmitting =>
    cases hev : s.evt.pending with
    | false =>
      simp only [hst, hev] at ht
      cases ht
      exact .inl hs
    | true =>
      simp only [hst, hev] at ht
      exact hend (K.ends_elIter hs) ht

end LoopInvariant

end Sys2Proof.Machine
end

section
/-! The stream of accepted bytes (41 R135), and what leaves it alone. -/

namespace Sys2Proof.Machine

/-! ### Bytes read after a multi-byte write -/

section

variable {s t : State} {k i j : Nat} {bs : List Byte}

theorem byteAt_writeAll_inside (hd : t.data = Memory.writeAll s.data k i bs) (hj : j < bs.length) :
    t.byteAt k (i + j) = bs[j] := by
  have haddr : slotAddr k (i + j) - slotAddr k i = j := by unfold slotAddr; omega
  have hin : slotAddr k i ≤ slotAddr k (i + j) ∧ slotAddr k (i + j) < slotAddr k i + bs.length := by
    unfold slotAddr; omega
  rw [State.byteAt, hd, Memory.read_writeAll, if_pos hin, haddr, List.getElem?_eq_getElem hj, Option.getD_some]

theorem byteAt_writeAll_outside (hd : t.data = Memory.writeAll s.data k i bs) (he : t.epoch = s.epoch)
    (hfit : i + bs.length ≤ Config.pkt) {h : Nat} (hj : j < Config.pkt) (hout : h ≠ k ∨ j < i) :
    t.byteAt h j = s.byteAt h j := by
  have hnot : ¬ (slotAddr k i ≤ slotAddr h j ∧ slotAddr h j < slotAddr k i + bs.length) := by
    unfold slotAddr Config.pkt at *; omega
  rw [State.byteAt, hd, Memory.read_writeAll, if_neg hnot, he, State.byteAt]

end

/-! ### The stream -/

section

variable {s t : State} {h : Nat}

theorem lenAt_set_other {n k : Nat} (hl : t.len = s.len.set h n) (hne : k ≠ h) : t.lenAt k = s.lenAt k := by
  simp [State.lenAt, List.getD, hl, List.getElem?_set_ne (Ne.symm hne)]

theorem packet_congr (hl : t.lenAt h = s.lenAt h) (hb : ∀ j < s.lenAt h, t.byteAt h j = s.byteAt h j) :
    t.packet h = s.packet h := by
  rw [State.packet, hl]
  exact List.map_congr_left fun j hj => hb j (List.mem_range.1 hj)

theorem fillBytes_congr (hf : t.fill = s.fill) (hp : t.fillPos = s.fillPos)
    (hb : ∀ k ∈ s.fill, ∀ j < s.fillPos, t.byteAt k j = s.byteAt k j) : t.fillBytes = s.fillBytes := by
  rw [State.fillBytes, State.fillBytes, hf, hp]
  cases hk : s.fill with
  | none => rfl
  | some k => exact List.map_congr_left fun j hj => hb k hk j (List.mem_range.1 hj)

theorem fillBytes_of_fill (hf : s.fill = some h) : s.fillBytes = (List.range s.fillPos).map (s.byteAt h) := by
  rw [State.fillBytes, hf]

end

/-! ### What the stream rests on -/

/-- The tags agree with the references, and the packets of the stream stay within their slots. -/
structure StreamHeld (s : State) : Prop where
  tagged : Tagged s
  lens : ∀ h ∈ s.txq, s.lenAt h ≤ Config.pkt
  fillPos : s.fillPos ≤ Config.pkt

theorem Consistent.streamHeld {s : State} (hs : Consistent s) : StreamHeld s :=
  ⟨hs.tags.tagged hs.shaped.owners, fun h _ => hs.shaped.lenAt_le h, hs.ranges.fillPos⟩

theorem Tagged.of_refs {s t : State} (hs : Tagged s) (ho : t.owner = s.owner) (hr : t.refs = s.refs) : Tagged t := by
  simpa only [Tagged, ho, hr] using hs

theorem refs_cargo (s : State) : s.cargo.refs = s.refs := funext fun tag => by cases tag <;> rfl

theorem StreamHeld.of_cargo {s t : State} (hs : StreamHeld s) (h : t.cargo = s.cargo) : StreamHeld t where
  tagged := hs.tagged.of_refs (congrArg State.owner h :) (by rw [← refs_cargo, h, refs_cargo])
  lens := by
    have hq : t.txq = s.txq := (congrArg State.txq h :)
    have hl : t.lenAt = s.lenAt := (congrArg State.lenAt h :)
    rw [hq, hl]
    exact hs.lens
  fillPos := by
    have hp : t.fillPos = s.fillPos := (congrArg State.fillPos h :)
    exact hp ▸ hs.fillPos

theorem unsent_of_cargo {s t : State} (h : t.cargo = s.cargo) : t.unsent = s.unsent := (congrArg State.unsent h :)

/-- Bytes written into a slot of no packet of the stream leave the stream alone, with the lengths of its packets. -/
theorem StreamHeld.unsent_of_write {s t : State} {k i : Nat} {bs : List Byte} (hs : StreamHeld s)
    (hd : t.data = Memory.writeAll s.data k i bs) (he : t.epoch = s.epoch) (hfit : i + bs.length ≤ Config.pkt)
    (hk : k ∉ s.txq) (hkf : s.fill ≠ some k) (hq : t.txq = s.txq) (hf : t.fill = s.fill) (hp : t.fillPos = s.fillPos)
    (hl : ∀ h ∈ s.txq, t.lenAt h = s.lenAt h) : t.unsent = s.unsent := by
  rw [State.unsent, State.unsent, hq]
  congr 1
  · refine List.flatMap_congr fun h hh => packet_congr (hl h hh) fun j hj => ?_
    exact byteAt_writeAll_outside hd he hfit (Nat.lt_of_lt_of_le hj (hs.lens h hh)) (.inl (ne_of_mem_of_not_mem hh hk))
  · refine fillBytes_congr hf hp fun h hh j hj => ?_
    refine byteAt_writeAll_outside hd he hfit (Nat.lt_of_lt_of_le hj hs.fillPos) (.inl ?_)
    rintro rfl
    exact hkf hh

end Sys2Proof.Machine
end

section
/-! The event loop takes bytes off the stream of accepted bytes only by handing them to the radio (41 R135, 20 R72). -/

namespace Sys2Proof.Machine

/-- A packet's pass takes the oldest packet off the stream and hands its bytes to the radio (44 R218). -/
theorem txOne_handed {kind : TxKind} {s t : State} {more : Bool} (hr : txOne kind s = .ok more t) :
    ∃ h rest x, s.txq = h :: rest ∧ t.cargo = State.cargo { s with txq := rest, owner := s.owner.set h .free }
      ∧ t.rtrace = s.rtrace ++ [x] ∧ x.handed = s.packet h ∧ x.received = [] := by
  obtain ⟨h, rest, s1, hq, -, rfl, hand, howner⟩ := txOne_cases hr
  have ht (u : State) (hu : { t with owner := s.owner.set h .inflight } = u) :
      t = { u with owner := s.owner.set h .free } := by
    subst hu
    simp only [List.set_set] at howner
    rw [← howner]
  have hpacket : ((List.range (s.lenAt h)).map fun j => s.byteAt h (0 + j)) = s.packet h := by simp [State.packet]
  rw [hpacket] at hand
  rcases handOff_cases kind (s.packet h) (s.lenAt h) { s with txq := rest, owner := s.owner.set h .inflight } with
    ⟨-, he⟩ | ⟨-, he⟩
  all_goals
    rw [he] at hand
    rw [ht _ (Prod.mk.inj hand).2.symm]
  · exact ⟨h, rest, _, hq, by simp [State.cargo], by simp; rfl, rfl, rfl⟩
  · exact ⟨h, rest, _, hq, rfl, rfl, rfl, rfl⟩

/-- The bytes handed to the radio since `s₀`, with those still waiting, are the stream of `s₀`. -/
structure Accounted (s₀ t : State) : Prop where
  held : StreamHeld t
  stream : ∃ new, t.rtrace = s₀.rtrace ++ new ∧ s₀.unsent = new.flatMap RadioTxn.handed ++ t.unsent

theorem Accounted.of_step {s₀ s t : State} {new : List RadioTxn} (hs : Accounted s₀ s) (held : StreamHeld t)
    (htrace : t.rtrace = s.rtrace ++ new) (hstream : s.unsent = new.flatMap RadioTxn.handed ++ t.unsent) : Accounted s₀ t := by
  obtain ⟨old, hold, hbytes⟩ := hs.stream
  exact ⟨held, old ++ new, by rw [htrace, hold, List.append_assoc],
    by rw [hbytes, hstream, List.flatMap_append, List.append_assoc]⟩

theorem Accounted.of_noBytes {s₀ s t : State} (hs : Accounted s₀ s) (h : NoBytes s t) : Accounted s₀ t := by
  obtain ⟨new, htrace, hnew⟩ := h.trace
  have hnone : new.flatMap RadioTxn.handed = [] := List.flatMap_eq_nil_iff.2 fun x hx => (hnew x hx).1
  exact hs.of_step (hs.held.of_cargo h.cargo) htrace (by rw [hnone, unsent_of_cargo h.cargo, List.nil_append])

theorem Accounted.of_send {s₀ s t : State} {kind : TxKind} {more : Bool} (hs : Accounted s₀ s) (hr : txOne kind s = .ok more t) :
    Accounted s₀ t := by
  obtain ⟨h, rest, x, hq, hcargo, htrace, hhanded, -⟩ := txOne_handed hr
  have held : StreamHeld { s with txq := rest, owner := s.owner.set h .free } :=
    ⟨(hs.held.tagged.txq_to_free hq :), fun k hk => hs.held.lens k (hq ▸ List.mem_cons_of_mem h hk), hs.held.fillPos⟩
  refine hs.of_step (held.of_cargo hcargo) htrace ?_
  rw [unsent_of_cargo hcargo, State.unsent, hq]
  simp only [List.flatMap_cons, List.flatMap_nil, List.append_nil, hhanded, List.append_assoc]
  rfl

theorem Accounted.of_load {s₀ s t : State} {h n : Nat} {u : Unit} (hs : Accounted s₀ s) (hfree : s.firstFree = some h)
    (hr : rxLoad h n (s.withOwner h .loading) = .ok u t) : Accounted s₀ t := by
  obtain ⟨-, -, ht⟩ := rxLoad_cases hr
  have ho := owner_of_firstFree hfree
  have hk : h ∉ s.txq := fun hm => nomatch ho.symm.trans (hs.held.tagged.owner_txq hm)
  have hkf : s.fill ≠ some h := fun hf => nomatch ho.symm.trans (hs.held.tagged.owner_fill hf)
  have hq : t.txq = s.txq := by simp [ht]
  have hl (k : Nat) (hm : k ∈ s.txq) : t.lenAt k = s.lenAt k :=
    lenAt_set_other (n := n) (by simp [ht]) (ne_of_mem_of_not_mem hm hk)
  have hstream : t.unsent = s.unsent := by
    refine hs.held.unsent_of_write (k := h) (i := 0) (bs := (s.withOwner h .loading).answer.payload.toList.take n)
      ?_ ?_ ?_ hk hkf hq ?_ ?_ hl <;> simp [ht]
  refine hs.of_step ⟨?_, ?_, ?_⟩ (new := [.rxPayload n ((s.withOwner h .loading).answer.payload.toList.take n)]) ?_ ?_
  · refine (hs.held.tagged.free_to_rxq ho).of_refs ?_ (funext fun tag => ?_)
    · simp [ht]
    · cases tag <;> simp [State.refs, ht]
  · exact fun k hm => (hl k (hq ▸ hm)) ▸ hs.held.lens k (hq ▸ hm)
  · simpa [ht] using hs.held.fillPos
  · simp [ht]
  · simp [hstream, RadioTxn.handed]

theorem accounted_loopInvariant (s₀ : State) : LoopInvariant (Accounted s₀) where
  quiet := Accounted.of_noBytes
  load hs hfree _ := ends_true_iff.2 fun _ _ hr => hs.of_load hfree hr
  send hs := ends_true_iff.2 fun _ _ hr => hs.of_send hr

theorem Consistent.accounted {s : State} (hs : Consistent s) : Accounted s s :=
  ⟨hs.streamHeld, [], by simp⟩

theorem Consistent.elStep_not_error {s t : State} (hs : Consistent s) (ht : elStep s = .next t) : t.state ≠ .error := by
  have hlead := consistent_stepInvariant.leads_elStep hs
  rw [ht] at hlead
  exact hlead.control.noError

/-- Settles O43: both moves of a packet keep the account, and from the invariant no step of the loop faults. -/
theorem transmitByteAccounting : Obligations.TransmitByteAccounting := by
  intro s t hs hready ht
  have hstop : s.state ≠ .stopping := fun h => by simp [State.ready, h] at hready
  exact (((accounted_loopInvariant s).kept_or_error hs.accounted hstop ht).resolve_right (hs.elStep_not_error ht)).stream

end Sys2Proof.Machine
end

section
/-! A full fill packet is waited for (41 R136): the commands of a port. -/

namespace Sys2Proof.Machine

/-- The command word decodes to a command that appends bytes to the fill packet. -/
def AppendsBytes (d : Decoded) : Prop := d.isWrite = true ∨ ∃ b, d = .ok (.put b)

/-- The port holds a PUT or WRITE that waits in phase B for its full packet to be flushed (41 R131, R132). -/
def Port.WaitsFull (pt : Port) : Prop := pt.busy = true ∧ pt.phase = .b ∧ AppendsBytes (decode pt.cmd)

theorem Port.WaitsFull.busy {pt : Port} (h : pt.WaitsFull) : pt.busy = true := h.1

theorem Port.WaitsFull.phase {pt : Port} (h : pt.WaitsFull) : pt.phase = .b := h.2.1

theorem Port.WaitsFull.appendsBytes {pt : Port} (h : pt.WaitsFull) : AppendsBytes (decode pt.cmd) := h.2.2

theorem not_appendsBytes {i : Instr} (hwrite : ∀ n, i ≠ .write n) (hput : ∀ b, i ≠ .put b) : ¬ AppendsBytes (.ok i) := by
  cases i with
  | put b => exact absurd rfl (hput b)
  | write n => exact absurd rfl (hwrite n)
  | flush | get | read _ | avail | start _ | stop | reset | stats _ | status _ => simp [AppendsBytes, Decoded.isWrite]

theorem lt_ports_of_busy {s : State} {p : Nat} (hb : (s.port p).busy = true) : p < s.ports.length := by
  by_contra hp
  rw [State.port, List.getD_eq_default _ _ (Nat.le_of_not_lt hp)] at hb
  cases hb

/-- The registers that the rule about a full fill packet reads, and the port whose step this is. -/
def State.front (s : State) : AdapterState × Nat × List Port × Nat := (s.state, s.fillPos, s.ports, s.cur)

theorem front_eq_iff {s : State} {st : AdapterState} {n : Nat} {ps : List Port} {p : Nat} :
    s.front = (st, n, ps, p) ↔ s.state = st ∧ s.fillPos = n ∧ s.ports = ps ∧ s.cur = p := by
  simp [State.front]

namespace FullFillHeld

variable {s t : State}

theorem of_front (hs : FullFillHeld s) (hstate : t.state = s.state) (hpos : t.fillPos = s.fillPos) (hports : t.ports = s.ports) :
    FullFillHeld t := by
  constructor <;> simp only [State.ready, hstate, hpos, hports]
  exacts [hs.starting, hs.held]

/-- Nothing waits where the fill packet has room. -/
theorem of_room (hstate : s.state ≠ .starting) (hroom : s.fillPos ≠ Config.pkt) : FullFillHeld s where
  starting h := absurd h hstate
  held _ hfull := absurd hfull hroom

theorem withPort (hs : FullFillHeld s) {p : Nat} {x : Port} (hx : (s.port p).WaitsFull → x.WaitsFull) :
    FullFillHeld (s.withPort p x) where
  starting := hs.starting
  held hr hfull := by
    obtain ⟨pt, hpt, hw⟩ := hs.held hr hfull
    obtain ⟨q, hq, rfl⟩ := List.mem_iff_getElem.1 hpt
    by_cases hqp : q = p
    · subst hqp
      have hport : s.port q = s.ports[q] := List.getD_eq_getElem _ _ hq
      exact ⟨x, List.mem_set hq x, hx (hport ▸ hw)⟩
    · exact ⟨s.ports[q], List.mem_iff_getElem.2 ⟨q, by simpa using hq, by simp [Ne.symm hqp]⟩, hw⟩

end FullFillHeld

theorem fullFillHeld_enterError (c : Cause) (p : Option Nat) (s : State) : FullFillHeld (enterError c p s) :=
  fullFillHeld_of_not_ready (by simp) (by simp [State.ready])

theorem leads_endPort_fullFillHeld {r : Res Unit} (hr : r.Ends True fun _ => FullFillHeld) :
    Leads True FullFillHeld r.endPort := by
  cases r with
  | ok u t => exact hr
  | fatal c t => exact fullFillHeld_enterError c _ t
  | stop f => trivial

/-! ### What the operations of a command do to the fill position and the ports -/

theorem front_appendFill {bs : List Byte} {s t : State} {u : Unit} (hr : appendFill bs s = .ok u t) :
    t.front = (s.state, s.fillPos + bs.length, s.ports, s.cur) := by
  obtain ⟨h, -, rfl⟩ := appendFill_cases hr
  rfl

theorem front_flushCore {s t : State} {u : Unit} (hr : flushCore s = .ok u t) : t.front = (s.state, 0, s.ports, s.cur) := by
  obtain ⟨h, h', -, -, -, -, rfl⟩ := flushCore_cases hr
  rfl

theorem front_adopt {s t : State} {u : Unit} (hr : adopt s = .ok u t) : t.front = s.front := by
  obtain ⟨h, rest, -, -, rfl⟩ := adopt_cases hr
  rfl

theorem front_adoptIfNone {s t : State} {u : Unit} (hr : adoptIfNone s = .ok u t) : t.front = s.front := by
  unfold adoptIfNone at hr
  split at hr
  · exact front_adopt hr
  · cases hr
    rfl

theorem front_consume {k : Nat} {out : List Byte} {s t : State} (hr : consume k s = .ok out t) : t.front = s.front := by
  obtain ⟨h, -, -, -, -, ⟨-, -, -, rfl⟩ | ⟨-, rfl⟩⟩ := consume_cases hr <;> rfl

theorem front_readLoop {maxN fuel : Nat} {out bs : List Byte} {s t : State} (hr : readLoop maxN fuel out s = .ok bs t) :
    t.front = s.front := by
  induction fuel generalizing out s with
  | zero => cases hr; rfl
  | succ fuel ih =>
    unfold readLoop at hr
    split at hr
    · cases hr; rfl
    split at hr
    · cases hr; rfl
    obtain ⟨_, s1, h1, hr⟩ := bind_eq_ok hr
    obtain ⟨bs', s2, h2, hr⟩ := bind_eq_ok hr
    rw [ih hr, front_consume h2, front_adoptIfNone h1]

/-! ### The commands -/

section

variable {s t : State} (hs : FullFillHeld s)

include hs

/-- A response on a port that is not waiting keeps what waits. -/
theorem FullFillHeld.respond_of_front (hw : ¬ (s.port s.cur).WaitsFull) (ht : t.front = s.front) (r : Rstat) (v : Word)
    (d : List Byte) : FullFillHeld (t.respond r v d) := by
  obtain ⟨hstate, hpos, hports, hcur⟩ := front_eq_iff.1 ht
  refine (hs.of_front hstate hpos hports).withPort fun hwait => absurd ?_ hw
  simpa only [State.port, hports, hcur] using hwait

theorem FullFillHeld.respond (hw : ¬ (s.port s.cur).WaitsFull) (r : Rstat) (v : Word) (d : List Byte) :
    FullFillHeld (s.respond r v d) :=
  hs.respond_of_front hw rfl r v d

theorem leads_guarded_fullFillHeld {g : Bool} {v : Word} {o : Host.Outcome State Fault Refusal}
    (ho : s.ready = true → Leads True FullFillHeld o) :
    Leads True FullFillHeld (if !g then .next s else if !s.ready then .next (s.respond .notReady v []) else o) := by
  split
  · exact hs
  split
  · rename_i hr
    have hr : s.ready = false := by simpa using hr
    exact ⟨hs.starting, fun hr' => by simp [hr] at hr'⟩
  · rename_i hr
    exact ho (by simpa using hr)

end

theorem ne_starting_of_ready {s : State} (hr : s.ready = true) : s.state ≠ .starting := fun h => by simp [State.ready, h] at hr

section

variable {s : State} (hr : s.state ≠ .starting)

include hr

/-- FLUSH_CORE leaves an empty fill packet, whatever port the rest of the step writes. -/
theorem ends_flush_fullFillHeld {k : Unit → State → Res Unit}
    (hk : ∀ t : State, t.state ≠ .starting → t.fillPos = 0 → (k () t).Ends True fun _ => FullFillHeld) :
    ((flushCore s).bind k).Ends True fun _ => FullFillHeld := by
  refine Res.Ends.bind (Q := fun _ t => t.front = (s.state, 0, s.ports, s.cur))
    (ends_true_iff.2 fun _ _ => front_flushCore) fun _ t ht => ?_
  obtain ⟨hstate, hpos, -, -⟩ := front_eq_iff.1 ht
  exact hk t (hstate ▸ hr) hpos

theorem ends_flush_respond_fullFillHeld {v : Word} :
    ((flushCore s).bind fun _ s => .ok () (s.respond .ok v [])).Ends True fun _ => FullFillHeld :=
  ends_flush_fullFillHeld hr fun t ht hpos => .of_room ht (by rw [respond_fillPos, hpos]; decide)

theorem ends_finishWrite_fullFillHeld {n : Nat} (hroom : s.fillPos ≠ Config.pkt) :
    (if (s.port s.cur).done = n then Res.ok () (s.respond .ok (toRval n) []) else .ok () (s.withPhase .a)).Ends True
      fun _ => FullFillHeld := by
  split <;> exact .of_room hr hroom

/-- The end of phase A: a response where the packet has room, a flush where the queue has, and else the wait in phase B. -/
theorem ends_appended_fullFillHeld {v : Word} {k : Unit → State → Res Unit} (hb : (s.port s.cur).busy = true)
    (hi : AppendsBytes (decode (s.port s.cur).cmd))
    (hk : ∀ t : State, t.state ≠ .starting → t.fillPos = 0 → (k () t).Ends True fun _ => FullFillHeld) :
    (if s.fillPos < Config.pkt then Res.ok () (s.respond .ok v [])
      else if s.txq.length < s.cfg.qtx then (flushCore s).bind k
      else .ok () (s.withPhase .b)).Ends True fun _ => FullFillHeld := by
  split
  · rename_i hroom
    exact .of_room hr (Nat.ne_of_lt hroom)
  split
  · exact ends_flush_fullFillHeld hr hk
  · exact ⟨fun h => absurd h hr, fun _ _ => ⟨_, List.mem_set (lt_ports_of_busy hb) _, hb, rfl, hi⟩⟩

end

section

variable {s : State} (hs : FullFillHeld s)

include hs

section

variable (hb : (s.port s.cur).busy = true) (hi : AppendsBytes (decode (s.port s.cur).cmd))

include hb hi

theorem leads_put_fullFillHeld {b : BitVec 8} : Leads True FullFillHeld (execPut b s) := by
  refine leads_guarded_fullFillHeld hs fun hr => ?_
  have hstart := ne_starting_of_ready hr
  cases (s.port s.cur).phase with
  | a =>
    refine leads_endPort_fullFillHeld (Res.Ends.bind (ends_true_iff.2 fun _ _ => front_appendFill) fun _ t ht => ?_)
    obtain ⟨hstate, -, hports, hcur⟩ := front_eq_iff.1 ht
    have hport : t.port t.cur = s.port s.cur := by simp only [State.port, hports, hcur]
    exact ends_appended_fullFillHeld (hstate ▸ hstart) (hport ▸ hb) (hport ▸ hi) fun u hu hpos =>
      .of_room hu (by rw [respond_fillPos, hpos]; decide)
  | b =>
    refine leads_endPort_fullFillHeld ?_
    unfold putPhaseB
    split
    · rename_i hroom
      exact .of_room hstart (Nat.ne_of_lt hroom)
    · exact ends_flush_respond_fullFillHeld hstart

theorem leads_write_fullFillHeld {n : BitVec 24} : Leads True FullFillHeld (execWrite n s) := by
  refine leads_guarded_fullFillHeld hs fun hr => ?_
  have hstart := ne_starting_of_ready hr
  cases hph : (s.port s.cur).phase with
  | a =>
    refine leads_endPort_fullFillHeld ?_
    unfold writePhaseA
    split
    · exact hs.respond (fun hw => nomatch hph.symm.trans hw.phase) _ _ _
    refine Res.Ends.bind (ends_true_iff.2 fun _ _ => front_appendFill) fun _ t ht => ?_
    obtain ⟨hstate, -, hports, hcur⟩ := front_eq_iff.1 ht
    have hport : t.port t.cur = { s.port s.cur with done := (s.port s.cur).done + (s.writeChunk n.toNat).length } := by
      rw [State.port, hports, hcur]
      exact port_withPort_same (lt_ports_of_busy hb)
    exact ends_appended_fullFillHeld (hstate ▸ hstart) (hport ▸ hb) (hport ▸ hi) fun u hu hpos =>
      ends_finishWrite_fullFillHeld hu (by rw [hpos]; decide)
  | b =>
    refine leads_endPort_fullFillHeld ?_
    unfold writePhaseB
    refine Res.Ends.bind (Q := fun _ t => t.state ≠ .starting ∧ t.fillPos ≠ Config.pkt) ?_ fun _ t ⟨ht, hroom⟩ =>
      ends_finishWrite_fullFillHeld ht hroom
    split
    · refine ends_true_iff.2 fun _ t hf => ?_
      obtain ⟨hstate, hpos, -, -⟩ := front_eq_iff.1 (front_flushCore hf)
      exact ⟨hstate ▸ hstart, by rw [hpos]; decide⟩
    · exact ⟨hstart, ‹_›⟩

end

section

variable (hw : ¬ (s.port s.cur).WaitsFull)

include hw

theorem leads_flush_fullFillHeld : Leads True FullFillHeld (execFlush s) := by
  refine leads_guarded_fullFillHeld hs fun hr => ?_
  split
  · exact hs.respond hw _ _ _
  · exact leads_endPort_fullFillHeld (ends_flush_respond_fullFillHeld (ne_starting_of_ready hr))

theorem leads_get_fullFillHeld : Leads True FullFillHeld (execGet s) := by
  refine leads_guarded_fullFillHeld hs fun hr => leads_endPort_fullFillHeld (ends_true_iff.2 fun _ t ht => ?_)
  obtain ⟨_, s1, h1, ht⟩ := bind_eq_ok ht
  obtain ⟨out, s2, h2, ht⟩ := bind_eq_ok ht
  cases ht
  exact hs.respond_of_front hw ((front_consume h2).trans (front_adoptIfNone h1)) _ _ _

theorem leads_read_fullFillHeld {maxN : BitVec 24} : Leads True FullFillHeld (execRead maxN s) := by
  refine leads_guarded_fullFillHeld hs fun hr => leads_endPort_fullFillHeld (ends_true_iff.2 fun _ t ht => ?_)
  obtain ⟨out, s1, h1, ht⟩ := bind_eq_ok ht
  cases ht
  exact hs.respond_of_front hw (front_readLoop h1) _ _ _

theorem leads_start_fullFillHeld {mode : BitVec 2} : Leads True FullFillHeld (execStart mode s) := by
  unfold execStart
  split
  · exact hs.respond hw _ _ _
  split
  · exact hs.respond hw _ _ _
  · refine leads_endPort_fullFillHeld (ends_true_iff.2 fun _ t ht => ?_)
    obtain ⟨h, s1, h1, ht⟩ := bind_eq_ok ht
    cases ht
    refine ⟨fun _ => rfl, fun _ h => nomatch h⟩

theorem leads_stop_fullFillHeld : Leads True FullFillHeld (execStop s) := by
  unfold execStop
  split
  · exact hs.respond hw _ _ _
  · exact fullFillHeld_of_not_ready nofun rfl

theorem leads_reset_fullFillHeld : Leads True FullFillHeld (execReset s) := by
  unfold execReset
  split
  · exact hs.respond hw _ _ _
  · exact fullFillHeld_of_not_ready nofun rfl

end

theorem leads_exec_fullFillHeld {i : Instr} (hb : (s.port s.cur).busy = true) (hd : decode (s.port s.cur).cmd = .ok i) :
    Leads True FullFillHeld (exec i s) := by
  have hquiet (hwrite : ∀ n, i ≠ .write n) (hput : ∀ b, i ≠ .put b) : ¬ (s.port s.cur).WaitsFull := fun hw =>
    not_appendsBytes hwrite hput (hd ▸ hw.appendsBytes)
  cases i with
  | put b => exact leads_put_fullFillHeld hs hb (hd ▸ .inr ⟨b, rfl⟩)
  | write n => exact leads_write_fullFillHeld hs hb (hd ▸ .inl rfl)
  | flush => exact leads_flush_fullFillHeld hs (hquiet nofun nofun)
  | get => exact leads_get_fullFillHeld hs (hquiet nofun nofun)
  | read maxN => exact leads_read_fullFillHeld hs (hquiet nofun nofun)
  | start mode => exact leads_start_fullFillHeld hs (hquiet nofun nofun)
  | stop => exact leads_stop_fullFillHeld hs (hquiet nofun nofun)
  | reset => exact leads_reset_fullFillHeld hs (hquiet nofun nofun)
  | stats sel => exact hs.respond (hquiet nofun nofun) _ _ _
  | avail =>
    simp only [exec, execAvail]
    split <;> exact hs.respond (hquiet nofun nofun) _ _ _
  | status sel =>
    simp only [exec, execStatus]
    split <;> exact hs.respond (hquiet nofun nofun) _ _ _

end

end Sys2Proof.Machine
end

section
/-! A full fill packet is waited for (41 R136): the event loop and the other agents. -/

namespace Sys2Proof.Machine

/-! ### The event loop -/

/-- The fill position and the ports are as in `s₀`, and `STATE` is as there or Ready. -/
structure CallersKept (s₀ t : State) : Prop where
  fillPos : t.fillPos = s₀.fillPos
  ports : t.ports = s₀.ports
  state : StaysOrReady s₀ t

theorem callersKept_loopInvariant (s₀ : State) : LoopInvariant (CallersKept s₀) where
  quiet := by
    rintro s t ⟨hpos, hports, hstate⟩ h
    exact ⟨(congrArg State.fillPos h.cargo :).trans hpos, (congrArg State.ports h.cargo :).trans hports, hstate.trans h.state⟩
  load := by
    rintro s h n ⟨hpos, hports, hstate⟩ - -
    refine ends_true_iff.2 fun _ t hr => ⟨?_, ?_, hstate.trans (.inl (congrArg Prod.fst (control_rxLoad hr) :))⟩
    all_goals
      obtain ⟨-, -, rfl⟩ := rxLoad_cases hr
      simpa
  send := by
    rintro s kind ⟨hpos, hports, hstate⟩
    refine ends_true_iff.2 fun _ t hr => ?_
    obtain ⟨h, rest, x, -, hcargo, -⟩ := txOne_handed hr
    exact ⟨(congrArg State.fillPos hcargo :).trans hpos, (congrArg State.ports hcargo :).trans hports,
      hstate.trans (.inl (congrArg Prod.fst (control_txOne hr) :))⟩

/-- A step of the loop in STOPPING does not lead to STARTING or a Ready state (43 R189). -/
theorem elStep_of_stopping {s t : State} (hstop : s.state = .stopping) (ht : elStep s = .next t) :
    t.state = .stopping ∨ t.state = .stopped ∨ t.state = .error := by
  have hpoll (u : State) (hu : u.state = .stopping) : (stopPoll u).state = .stopping ∨ (stopPoll u).state = .stopped := by
    unfold stopPoll
    simp only
    split
    · exact .inr rfl
    · exact .inl hu
  have hswitch : (stopSwitch s).state = .stopping := by
    unfold stopSwitch
    split <;> exact hstop
  have hdrain : (txDrain (stopSwitch s)).Ends True fun _ u => u.state = .stopping :=
    ends_txDrain_of (J := fun u => u.state = .stopping) (fun u hu => by simpa [radioTxFull] using hu)
      (fun hu => ends_true_iff.2 fun _ _ hr => (congrArg Prod.fst (control_txOne hr) :).trans hu) hswitch
  simp only [elStep, State.elEnabled, hstop] at ht
  rcases endLoop_cases ht with ⟨_, ht⟩ | ⟨c, s', -, rfl⟩
  · obtain ⟨_, u, hu, ht⟩ := bind_eq_ok ht
    have hu := ends_true_iff.1 hdrain _ _ hu
    split at ht <;> cases ht
    · split
      · exact .inr (.inl rfl)
      · exact (hpoll _ (by simpa [radioTxEmpty] using hu)).imp_right .inl
    · exact (hpoll u hu).imp_right .inl
  · exact .inr (.inr (enterError_state c none s'))

theorem FullFillHeld.elStep {s t : State} (hs : FullFillHeld s) (ht : elStep s = .next t) : FullFillHeld t := by
  by_cases hstop : s.state = .stopping
  · rcases elStep_of_stopping hstop ht with h | h | h <;>
      exact fullFillHeld_of_not_ready (by simp [h]) (by simp [State.ready, h])
  rcases (callersKept_loopInvariant s).kept_or_error ⟨rfl, rfl, .inl rfl⟩ hstop ht with
    ⟨hpos, hports, hstate | hr⟩ | herr
  · exact hs.of_front hstate hpos hports
  · have hstart : t.state ≠ .starting := ne_starting_of_ready hr
    cases hst : s.state with
    | stopping => exact absurd hst hstop
    | stopped | error =>
      simp only [Machine.elStep, State.elEnabled, hst] at ht
      cases ht
      exact hs
    | starting => exact .of_room hstart (by rw [hpos, hs.starting hst]; decide)
    | receiving | transmitting =>
      have hready : s.ready = true := by simp only [State.ready, hst]
      exact ⟨fun h => absurd h hstart, fun _ hfull => hports ▸ hs.held hready (hpos ▸ hfull)⟩
  · exact fullFillHeld_of_not_ready (by simp [herr]) (by simp [State.ready, herr])

/-! ### The agents -/

theorem leads_portStep_fullFillHeld {s : State} (hs : FullFillHeld s) (p : Nat) : Leads True FullFillHeld (portStep p s) := by
  have hcur : FullFillHeld { s with cur := p } := hs.of_front rfl rfl rfl
  unfold portStep
  split
  · rename_i hif
    obtain ⟨-, hb⟩ := hif
    cases hd : decode (s.port p).cmd with
    | ok i => exact leads_exec_fullFillHeld hcur hb hd
    | illegal r =>
      refine hcur.respond (fun hw => ?_) _ _ _
      have happ : AppendsBytes (decode (s.port p).cmd) := hw.appendsBytes
      simp [hd, AppendsBytes, Decoded.isWrite] at happ
  · exact hs

theorem leads_hostStep_fullFillHeld {s : State} (hs : FullFillHeld s) (p : Nat) (w : Word) (payload : List Byte) :
    Leads True FullFillHeld (hostStep p w payload s) := by
  unfold hostStep
  split
  · rename_i hif
    obtain ⟨-, hidle⟩ := hif
    split
    · exact hs.withPort fun hw => nomatch hidle.symm.trans hw.busy
    · trivial
  · exact hs

theorem leads_takeEvent_fullFillHeld {s : State} (hs : FullFillHeld s) (e : Event) : Leads True FullFillHeld (takeEvent e s) := by
  cases e with
  | port p => exact leads_portStep_fullFillHeld hs p
  | host p w payload => exact leads_hostStep_fullFillHeld hs p w payload
  | rst => exact fullFillHeld_of_not_ready nofun rfl
  | irq =>
    simp only [takeEvent, irqStep]
    split
    · exact hs.of_front rfl rfl rfl
    · exact hs
  | el =>
    cases ht : takeEvent .el s with
    | next t => exact hs.elStep ht
    | fault f => trivial
    | refused r => trivial

/-- Settles O55: only PUT and WRITE fill the packet, and where they fill it they flush it or wait in phase B; the port that waits
is written only by its own flush. -/
theorem fullFillHeldKept : Obligations.FullFillHeldKept := by
  intro s t hs hheld ht
  rw [step_of_wellFormed hs.shaped.config] at ht
  have hlead := leads_takeEvent_fullFillHeld (s := s.chosen)
    (hheld.of_front (chosen_state s) (chosen_fillPos s) (chosen_ports s)) s.nextEvent
  rwa [ht] at hlead

end Sys2Proof.Machine
end

section
/-! Appending to the fill packet and flushing it, from the invariant: the state after, and the stream of accepted bytes (41 R130,
R135). -/

namespace Sys2Proof.Machine

/-- The state after the bytes `bs` are appended to the fill packet `h` (41 R131, R132). -/
def State.appended (s : State) (h : Nat) (bs : List Byte) : State :=
  { s with data := Memory.writeAll s.data h s.fillPos bs, fillPos := s.fillPos + bs.length }

/-- The state after the fill packet `h` is enqueued and the loop is signalled, with no fill packet yet (41 R130). -/
def State.enqueued (s : State) (h : Nat) : State :=
  { s with
    len := s.len.set h s.fillPos, txq := s.txq ++ [h], owner := s.owner.set h .txq, evt := { s.evt with txp := true }
    fill := none, fillPos := 0 }

/-- The state after the fill packet `h` is flushed and `h'` takes its place (41 R130). -/
def State.flushed (s : State) (h h' : Nat) : State := { (s.enqueued h).withOwner h' .fill with fill := some h' }

section

variable {s : State} {h : Nat} {bs : List Byte}

theorem Live.append_ok (hs : Live Consistent s) (hf : s.fill = some h) (hfit : s.fillPos + bs.length ≤ Config.pkt) :
    appendFill bs s = .ok () (s.appended h bs) :=
  appendFill_ok hf (hs.slot_of_owner (hs.tagged.owner_fill hf)) hfit

theorem Live.appended (hs : Live Consistent s) (hfit : s.fillPos + bs.length ≤ Config.pkt) :
    Live Consistent (s.appended h bs) :=
  hs.withFillPos hfit _

theorem Live.flush_ok (hs : Live Consistent s) (hf : s.fill = some h) (hq : s.txq.length < s.cfg.qtx)
    {h' : Nat} (hfree : (s.withOwner h .txq).firstFree = some h') : flushCore s = .ok () (s.flushed h h') :=
  flushCore_ok hf (hs.slot_of_owner (hs.tagged.owner_fill hf)) (Nat.ne_of_lt hq) hfree

/-! ### The stream of accepted bytes -/

theorem StreamHeld.fill_not_queued (hs : StreamHeld s) (hf : s.fill = some h) : h ∉ s.txq := fun hm =>
  nomatch (hs.tagged.owner_fill hf).symm.trans (hs.tagged.owner_txq hm)

/-- Bytes appended to the fill packet go to the end of the stream. -/
theorem StreamHeld.unsent_appended (hs : StreamHeld s) (hf : s.fill = some h) (hfit : s.fillPos + bs.length ≤ Config.pkt) :
    (s.appended h bs).unsent = s.unsent ++ bs := by
  have hold (k j : Nat) (hj : j < Config.pkt) (hout : k ≠ h ∨ j < s.fillPos) : (s.appended h bs).byteAt k j = s.byteAt k j :=
    byteAt_writeAll_outside (t := s.appended h bs) rfl rfl hfit hj hout
  have hqueued : s.txq.flatMap (s.appended h bs).packet = s.txq.flatMap s.packet :=
    List.flatMap_congr fun k hk => packet_congr rfl fun j hj =>
      hold k j (Nat.lt_of_lt_of_le hj (hs.lens k hk)) (.inl (ne_of_mem_of_not_mem hk (hs.fill_not_queued hf)))
  have hfill : (s.appended h bs).fillBytes = s.fillBytes ++ bs := by
    rw [fillBytes_of_fill hf, fillBytes_of_fill (s := s.appended h bs) hf, State.appended, List.range_add, List.map_append,
      List.map_map]
    congr 1
    · refine List.map_congr_left fun j hj => ?_
      have hj := List.mem_range.1 hj
      exact hold h j (Nat.lt_of_lt_of_le hj hs.fillPos) (.inr hj)
    · exact List.ext_getElem (by simp) fun j hj hj' => by simpa using byteAt_writeAll_inside rfl hj'
  calc (s.appended h bs).unsent = s.txq.flatMap (s.appended h bs).packet ++ (s.appended h bs).fillBytes := rfl
    _ = s.unsent ++ bs := by rw [hqueued, hfill, State.unsent, List.append_assoc]

theorem Live.lenAt_flushed (hs : Live Consistent s) (hf : s.fill = some h) (h' : Nat) : (s.flushed h h').lenAt h = s.fillPos := by
  have hh := hs.slot_of_owner (hs.tagged.owner_fill hf)
  rw [lenAt_of_set (n := s.fillPos) rfl (hs.holds.shaped.lens ▸ hh), if_pos rfl]

/-- A flush moves no byte: the bytes of the fill packet are now those of the last packet of the queue. -/
theorem Live.unsent_flushed (hs : Live Consistent s) (hf : s.fill = some h) (h' : Nat) : (s.flushed h h').unsent = s.unsent := by
  have hqueued : s.txq.flatMap (s.flushed h h').packet = s.txq.flatMap s.packet :=
    List.flatMap_congr fun k hk => packet_congr (lenAt_set_other (n := s.fillPos) rfl
      (ne_of_mem_of_not_mem hk (hs.holds.streamHeld.fill_not_queued hf))) fun j _ => rfl
  have hlast : (s.flushed h h').packet h = s.fillBytes := by
    rw [State.packet, hs.lenAt_flushed hf, fillBytes_of_fill hf]
    rfl
  calc (s.flushed h h').unsent = (s.txq ++ [h]).flatMap (s.flushed h h').packet ++ [] := rfl
    _ = s.unsent := by
      rw [List.flatMap_append, hqueued, List.flatMap_cons, List.flatMap_nil, hlast, List.append_nil, List.append_nil,
        State.unsent]

/-! ### The slots of a flush -/

theorem ownerAt_flushed_new {h' : Nat} (hfree : (s.withOwner h .txq).firstFree = some h') :
    (s.flushed h h').ownerAt h' = .fill :=
  ownerAt_withOwner_same (s := s.withOwner h .txq) (firstFree_spec hfree).1

section

variable {h' : Nat} (hs : Live Consistent s) (hf : s.fill = some h) (hfree : (s.withOwner h .txq).firstFree = some h')

include hs hf hfree

theorem flushed_slots_ne : h' ≠ h := by
  rintro rfl
  have ho := owner_of_firstFree hfree
  simp [(List.getElem?_eq_some_iff.1 (hs.tagged.owner_fill hf)).1] at ho

theorem ownerAt_flushed_old : (s.flushed h h').ownerAt h = .txq := by
  obtain ⟨hh, -⟩ := List.getElem?_eq_some_iff.1 (hs.tagged.owner_fill hf)
  calc (s.flushed h h').ownerAt h = ((s.withOwner h .txq).withOwner h' .fill).ownerAt h := rfl
    _ = .txq := by rw [ownerAt_withOwner_other (flushed_slots_ne hs hf hfree).symm, ownerAt_withOwner_same hh]

/-- The slot that takes the fill packet's place is the lowest free one (40 R112). -/
theorem flushed_slot_lowest : s.ownerAt h' = .free ∧ ∀ k < h', s.ownerAt k ≠ .free := by
  obtain ⟨-, hnew, hlow⟩ := firstFree_spec hfree
  rw [ownerAt_withOwner_other (flushed_slots_ne hs hf hfree)] at hnew
  refine ⟨hnew, fun k hk hk0 => ?_⟩
  by_cases hkh : k = h
  · subst hkh
    have ho := ((owner_eq_some_iff hs.holds.shaped.owners).1 (hs.tagged.owner_fill hf)).2
    exact nomatch ho.symm.trans hk0
  · exact hlow k hk (by rwa [ownerAt_withOwner_other hkh])

end

end

end Sys2Proof.Machine
end

section
/-! PUT and FLUSH (41 R131, R133). -/

namespace Sys2Proof.Machine

section

variable {s : State}

theorem putGuard_of_room (hroom : s.fillPos < 32 ∨ (s.port s.cur).phase = .b ∧ s.txq.length < s.cfg.qtx) :
    s.putGuard = true := by
  rcases hroom with hroom | ⟨hph, hq⟩
  · simp [State.putGuard, hroom]
  · simp [State.putGuard, hph, hq]

theorem exec_put_phaseA {b : BitVec 8} (hr : s.ready = true) (hph : (s.port s.cur).phase = .a) (hroom : s.fillPos < 32) :
    exec (.put b) s = (putPhaseA b s).endPort := by
  simp [exec, execPut, putGuard_of_room (.inl hroom), hr, hph]

theorem exec_put_phaseB {b : BitVec 8} (hr : s.ready = true) (hph : (s.port s.cur).phase = .b)
    (hroom : s.fillPos < 32 ∨ s.txq.length < s.cfg.qtx) : exec (.put b) s = (putPhaseB s).endPort := by
  simp [exec, execPut, putGuard_of_room (hroom.imp_right fun hq => ⟨hph, hq⟩), hr, hph]

theorem flushGuard_of_room (hroom : s.fillPos = 0 ∨ s.txq.length < s.cfg.qtx) : s.flushGuard = true := by
  rcases hroom with hpos | hq
  · simp [State.flushGuard, hpos]
  · simp [State.flushGuard, hq]

theorem exec_flush_of_empty (hr : s.ready = true) (hpos : s.fillPos = 0) : exec .flush s = .next (s.respond .ok 0 []) := by
  simp [exec, execFlush, flushGuard_of_room (.inl hpos), hr, hpos]

theorem exec_flush_of_room (hr : s.ready = true) (hpos : s.fillPos ≠ 0) (hq : s.txq.length < s.cfg.qtx) :
    exec .flush s = ((flushCore s).bind fun _ s => Res.ok () (s.respond .ok 0 [])).endPort := by
  simp [exec, execFlush, flushGuard_of_room (.inr hq), hr, hpos]

theorem cur_lt_ports (hs : Consistent s) (hp : s.cur < s.cfg.nport) : s.cur < s.ports.length := hs.shaped.ports ▸ hp

/-- A flush that ends with a response of its own is a flush and a response. -/
theorem Live.flush_respond_ok {h h' : Nat} (hs : Live Consistent s) (hf : s.fill = some h) (hq : s.txq.length < s.cfg.qtx)
    (hfree : (s.withOwner h .txq).firstFree = some h') :
    ((flushCore s).bind fun _ s => Res.ok () (s.respond .ok 0 [])).endPort = .next ((s.flushed h h').respond .ok 0 []) := by
  rw [hs.flush_ok hf hq hfree]
  rfl

end

/-- Settles O13: the byte is written at the fill position, and the response is the rest of the step. -/
theorem putAppendsByte : Obligations.PutAppendsByte := by
  intro s b hs hp hr hph hroom
  have hl := Live.of_ready hs hr
  obtain ⟨h, hf, -⟩ := hl.fill_slot
  have hfit : s.fillPos + [b].length ≤ Config.pkt := by simp only [List.length_singleton, Config.pkt]; omega
  have hstill : (s.appended h [b]).fillPos < Config.pkt := by
    simp only [State.appended, List.length_singleton, Config.pkt]; omega
  refine ⟨h, (s.appended h [b]).respond .ok 0 [], hf, ?exec, ⟨cur_lt_ports hs hp, rfl⟩, ?byte, fun a ha => ?others, rfl⟩
  case exec =>
    rw [exec_put_phaseA hr hph (by omega), putPhaseA, hl.append_ok hf hfit, bind_ok, if_pos hstill]
    rfl
  case byte => exact byteAt_writeAll_inside (s := s) (bs := [b]) (j := 0) rfl (by simp)
  case others => exact Memory.read_write_other s.data b ha

/-- Settles O14: the byte completes the packet, and the flush of the completed packet moves no byte. -/
theorem putFlushesFullPacket : Obligations.PutFlushesFullPacket := by
  intro s b hs hp hr hph hpos hq
  have hl := Live.of_ready hs hr
  obtain ⟨h, hf, -⟩ := hl.fill_slot
  have hfit : s.fillPos + [b].length ≤ Config.pkt := by simp [hpos]
  have hl' : Live Consistent (s.appended h [b]) := hl.appended hfit
  have hfull : (s.appended h [b]).fillPos = 32 := by simp [State.appended, hpos]
  have hq' : (s.appended h [b]).txq.length < (s.appended h [b]).cfg.qtx := hq
  obtain ⟨h', hfree⟩ := hl'.exists_firstFree_of_flush (h := h) hf hq'
  obtain ⟨hnew, hlow⟩ := flushed_slot_lowest hl' hf hfree
  refine ⟨h, h', ((s.appended h [b]).flushed h h').respond .ok 0 [], hf, ?exec, ⟨cur_lt_ports hs hp, rfl⟩,
    (hl'.lenAt_flushed hf h').trans hfull, ?byte, rfl, ownerAt_flushed_old hl' hf hfree, rfl, rfl, rfl,
    ownerAt_flushed_new hfree, hnew, hlow, ?stream⟩
  case exec =>
    rw [exec_put_phaseA hr hph (by omega), putPhaseA, hl.append_ok hf hfit, bind_ok, if_neg (by rw [hfull]; decide), if_pos hq']
    exact hl'.flush_respond_ok hf hq' hfree
  case byte =>
    have hbyte := byteAt_writeAll_inside (s := s) (t := s.appended h [b]) (bs := [b]) (j := 0) rfl (by simp)
    rwa [hpos] at hbyte
  case stream => exact (hl'.unsent_flushed hf h').trans (hs.streamHeld.unsent_appended hf hfit)

/-- Settles O15: phase A appends the byte and waits; phase B flushes the full packet, or finds room and only responds. -/
theorem putWaitsThenFlushes : Obligations.PutWaitsThenFlushes := by
  intro s b hs hp hr
  have hl := Live.of_ready hs hr
  obtain ⟨h, hf, -⟩ := hl.fill_slot
  refine ⟨fun hph hpos hq => ?wait, fun hph hpos hq => ?flush, fun hph hroom => ?found⟩
  case wait =>
    have hfit : s.fillPos + [b].length ≤ Config.pkt := by simp [hpos]
    have hfull : (s.appended h [b]).fillPos = 32 := by simp [State.appended, hpos]
    have hq' : ¬ (s.appended h [b]).txq.length < (s.appended h [b]).cfg.qtx := Nat.not_lt.2 (Nat.le_of_eq hq.symm)
    refine ⟨(s.appended h [b]).withPhase .b, ?_, rfl, hfull, rfl, hs.streamHeld.unsent_appended hf hfit⟩
    rw [exec_put_phaseA hr hph (by omega), putPhaseA, hl.append_ok hf hfit, bind_ok, if_neg (by rw [hfull]; decide), if_neg hq']
    rfl
  case flush =>
    obtain ⟨h', hfree⟩ := hl.exists_firstFree_of_flush hf hq
    refine ⟨h, (s.flushed h h').respond .ok 0 [], hf, ?_, ⟨cur_lt_ports hs hp, rfl⟩, rfl, (hl.lenAt_flushed hf h').trans hpos,
      rfl, rfl, hl.unsent_flushed hf h'⟩
    rw [exec_put_phaseB hr hph (.inr hq), putPhaseB, if_neg (by rw [hpos]; decide)]
    exact hl.flush_respond_ok hf hq hfree
  case found =>
    rw [exec_put_phaseB hr hph (.inl hroom), putPhaseB, if_pos hroom]
    rfl

/-- Settles O19: an empty fill packet is answered at once, any other is flushed. -/
theorem flushEnqueuesFillPacket : Obligations.FlushEnqueuesFillPacket := by
  intro s hp hr
  refine ⟨fun hpos => ?empty, fun hs hpos hq => ?flush⟩
  case empty => exact exec_flush_of_empty hr hpos
  case flush =>
    have hl := Live.of_ready hs hr
    obtain ⟨h, hf, -⟩ := hl.fill_slot
    obtain ⟨h', hfree⟩ := hl.exists_firstFree_of_flush hf hq
    obtain ⟨hnew, hlow⟩ := flushed_slot_lowest hl hf hfree
    refine ⟨h, h', (s.flushed h h').respond .ok 0 [], hf, ?_, ⟨hp, rfl⟩, hl.lenAt_flushed hf h', rfl,
      ownerAt_flushed_old hl hf hfree, rfl, rfl, rfl, ownerAt_flushed_new hfree, hnew, hlow, rfl, hl.unsent_flushed hf h'⟩
    rw [exec_flush_of_room hr (Nat.ne_of_gt hpos) hq]
    exact hl.flush_respond_ok hf hq hfree

end Sys2Proof.Machine
end

section
/-! WRITE (41 R132), and a FLUSH on an empty pool (60 R262). -/

namespace Sys2Proof.Machine

/-! ### The port of the step -/

section

variable {s u : State} {x : Port}

theorem ports_set_port (s : State) (p : Nat) : s.ports.set p (s.port p) = s.ports := by
  refine List.ext_getElem? fun q => ?_
  rw [List.getElem?_set]
  by_cases hq : p = q
  · subst hq
    by_cases hp : p < s.ports.length <;> simp [State.port, List.getD, hp]
  · rw [if_neg hq]

theorem port_of_ports_set (hp : s.cur < s.ports.length) (hu : u.ports = s.ports.set s.cur x) (hc : u.cur = s.cur) :
    u.port u.cur = x := by
  simp [State.port, List.getD, hu, hc, hp]

theorem respond_ports_of_set (hp : s.cur < s.ports.length) (hu : u.ports = s.ports.set s.cur x) (hc : u.cur = s.cur) (r : Rstat)
    (v : Word) (d : List Byte) : (u.respond r v d).ports = s.ports.set s.cur (x.answered ⟨r, v, d⟩) := by
  rw [respond_ports, port_of_ports_set hp hu hc, hu, hc, List.set_set]

theorem withPhase_ports_of_set (hp : s.cur < s.ports.length) (hu : u.ports = s.ports.set s.cur x) (hc : u.cur = s.cur)
    (ph : Phase) : (u.withPhase ph).ports = s.ports.set s.cur { x with phase := ph } := by
  rw [withPhase_ports, port_of_ports_set hp hu hc, hu, hc, List.set_set]

end

/-! ### WRITE -/

section

variable {s : State}

theorem toRval_toNat (n : BitVec 24) : toRval n.toNat = n.setWidth 32 := by
  have hn := n.isLt
  rw [toRval, if_pos (by omega)]
  apply BitVec.eq_of_toNat_eq
  simp

theorem writeGuard_of_room {n : Nat} (hroom : s.fillPos < 32 ∨ (s.port s.cur).phase = .a ∧ (s.port s.cur).done = n
    ∨ (s.port s.cur).phase = .b ∧ s.txq.length < s.cfg.qtx) : s.writeGuard n = true := by
  rcases hroom with hroom | ⟨hph, hdone⟩ | ⟨hph, hq⟩
  · simp [State.writeGuard, hroom]
  · simp [State.writeGuard, hph, hdone]
  · simp [State.writeGuard, hph, hq]

theorem exec_write_phaseA {n : BitVec 24} (hr : s.ready = true) (hph : (s.port s.cur).phase = .a)
    (hroom : s.fillPos < 32 ∨ (s.port s.cur).done = n.toNat) : exec (.write n) s = (writePhaseA n.toNat s).endPort := by
  have hg : s.writeGuard n.toNat = true := writeGuard_of_room (hroom.imp_right fun hdone => .inl ⟨hph, hdone⟩)
  simp [exec, execWrite, hg, hr, hph]

theorem exec_write_phaseB {n : BitVec 24} (hr : s.ready = true) (hph : (s.port s.cur).phase = .b)
    (hroom : s.fillPos < 32 ∨ s.txq.length < s.cfg.qtx) : exec (.write n) s = (writePhaseB n.toNat s).endPort := by
  have hg : s.writeGuard n.toNat = true := writeGuard_of_room (hroom.imp_right fun hq => .inr ⟨hph, hq⟩)
  simp [exec, execWrite, hg, hr, hph]

/-- A step of WRITE whose packet is not full any more ends with a response, or goes on in phase A; it writes its port only. -/
theorem finishWrite_ok {u : State} {x : Port} (hp : s.cur < s.ports.length) (hu : u.ports = s.ports.set s.cur x)
    (hc : u.cur = s.cur) (n : BitVec 24) :
    ∃ t, (if (u.port u.cur).done = n.toNat then Res.ok () (u.respond .ok (toRval n.toNat) []) else .ok () (u.withPhase .a))
        = .ok () t
      ∧ { t with ports := u.ports } = u
      ∧ t.ports = s.ports.set s.cur
          (if x.done = n.toNat then x.answered ⟨.ok, n.setWidth 32, []⟩ else { x with phase := .a }) := by
  rw [port_of_ports_set hp hu hc]
  split
  · exact ⟨_, rfl, rfl, by rw [respond_ports_of_set hp hu hc, toRval_toNat]⟩
  · exact ⟨_, rfl, rfl, withPhase_ports_of_set hp hu hc .a⟩

theorem unsent_of_ports {u t : State} (h : { t with ports := u.ports } = u) : t.unsent = u.unsent := (congrArg State.unsent h :)

/-- The chunk of a WRITE is as long as its payload and the fill packet allow. -/
theorem writeChunk_length {n : BitVec 24} (hs : PortsAgree s) (hb : (s.port s.cur).busy = true)
    (hd : decode (s.port s.cur).cmd = .ok (.write n)) :
    (s.writeChunk n.toNat).length = min (n.toNat - (s.port s.cur).done) (32 - s.fillPos) := by
  obtain ⟨hlen, -⟩ := hs.port s.cur hb
  rw [hd] at hlen
  have hlen : (s.port s.cur).wdata.length = n.toNat := hlen
  simp only [State.writeChunk, List.length_take, List.length_drop, hlen, Config.pkt]
  omega

end

/-- Settles O17: the guard of a complete WRITE holds at any fill position, and the step is its response. -/
theorem writeCompletes : Obligations.WriteCompletes := by
  intro s n hr hph hdone
  rw [exec_write_phaseA hr hph (.inr hdone), writePhaseA, if_pos hdone, toRval_toNat]
  rfl

/-- The state `t` is `s` with the chunk `bs` of the WRITE on the port whose step this is appended to the fill packet (41 R132). -/
structure ChunkAppended (s t : State) (bs : List Byte) : Prop where
  live : Live Consistent t
  fill : t.fill = s.fill
  fillPos : t.fillPos = s.fillPos + bs.length
  txq : t.txq = s.txq
  evt : t.evt = s.evt
  cfg : t.cfg = s.cfg
  cur : t.cur = s.cur
  ports : t.ports = s.ports.set s.cur { s.port s.cur with done := (s.port s.cur).done + bs.length }
  stream : t.unsent = s.unsent ++ bs

theorem chunkAppended {s : State} {n : Nat} (hs : Live Consistent s) (hroom : s.fillPos < Config.pkt) :
    ∃ t, ChunkAppended s t (s.writeChunk n)
      ∧ appendFill (s.writeChunk n) (s.withDone ((s.port s.cur).done + (s.writeChunk n).length)) = .ok () t := by
  have hl := consistent_stepInvariant.live_withChunk (n := n) hs
  obtain ⟨h, hf, -⟩ := hs.fill_slot
  have hfit : s.fillPos + (s.writeChunk n).length ≤ Config.pkt := by
    have := (writeChunk_length_le s n).1
    omega
  exact ⟨_, ⟨hl.appended hfit, rfl, rfl, rfl, rfl, rfl, rfl, rfl, hl.holds.streamHeld.unsent_appended hf hfit⟩,
    hl.append_ok hf hfit⟩

/-- Settles O16: the chunk is appended, and then the room left in the packet and in the queue decides. -/
theorem writeAppendsChunk : Obligations.WriteAppendsChunk := by
  rintro s n _ k hs hp hr rfl hb hd hph hmore hroom hk
  have hp := cur_lt_ports hs hp
  have hlen : (s.writeChunk n.toNat).length = k := (writeChunk_length hs.ports hb hd).trans hk.symm
  have hchunk : s.writeChunk n.toNat = ((s.port s.cur).wdata.drop (s.port s.cur).done).take k := by rw [hk]; rfl
  obtain ⟨u, ⟨hl, hfill, hpos, htxq, hevt, hcfg, hcur, hports, hstream⟩, happend⟩ :=
    chunkAppended (n := n.toNat) (.of_ready hs hr) hroom
  rw [hlen] at hpos hports
  rw [hchunk] at hstream
  rw [exec_write_phaseA hr hph (.inl hroom), writePhaseA, if_neg (Nat.ne_of_lt hmore), happend, bind_ok, hpos, htxq, hcfg]
  split
  · rename_i hstill
    have hdone : (s.port s.cur).done + k = n.toNat := by simp only [Config.pkt] at hstill; omega
    rw [hdone] at hports
    exact ⟨_, rfl, hstream, by rw [respond_ports_of_set hp hports hcur, toRval_toNat], hpos, hfill, htxq, hevt⟩
  rename_i hfull
  have hfull : s.fillPos + k = 32 := by simp only [Config.pkt] at hfull; omega
  split
  · rename_i hq
    obtain ⟨h, hf, -⟩ := hl.fill_slot
    have hq' : u.txq.length < u.cfg.qtx := by rwa [htxq, hcfg]
    obtain ⟨h', hfree⟩ := hl.exists_firstFree_of_flush hf hq'
    obtain ⟨t, ht, hframe, hset⟩ := finishWrite_ok (u := u.flushed h h') hp hports hcur n
    rw [hl.flush_ok hf hq' hfree, bind_ok, ht]
    refine ⟨t, rfl, (unsent_of_ports hframe).trans ((hl.unsent_flushed hf h').trans hstream), ?_,
      (congrArg State.fillPos hframe :), ⟨h, hfill.symm.trans hf, htxq ▸ (congrArg State.txq hframe :), ?_⟩,
      hevt ▸ (congrArg State.evt hframe :)⟩
    · rw [hset]
      split
      · rename_i hdone
        simp only [hdone]
      · rw [← hph]
    · have hlen : t.lenAt h = (u.flushed h h').lenAt h := (congrArg (State.lenAt · h) hframe :)
      rw [hlen, hl.lenAt_flushed hf h', hpos, hfull]
  · exact ⟨_, rfl, hstream, withPhase_ports_of_set hp hports hcur .b, hpos.trans hfull, hfill, htxq, hevt⟩

/-- Settles O18: the packet is flushed, or is found with room, and the rest of the step writes the port only. -/
theorem writeResumesAfterWait : Obligations.WriteResumesAfterWait := by
  rintro s n _ hs hp hr rfl hph hroom
  have hp := cur_lt_ports hs hp
  have hl := Live.of_ready hs hr
  have hports := (ports_set_port s s.cur).symm
  rw [exec_write_phaseB hr hph hroom, writePhaseB]
  by_cases hfull : s.fillPos = 32
  · obtain ⟨h, hf, -⟩ := hl.fill_slot
    have hq : s.txq.length < s.cfg.qtx := hroom.resolve_left (by omega)
    obtain ⟨h', hfree⟩ := hl.exists_firstFree_of_flush hf hq
    obtain ⟨t, ht, hframe, hset⟩ := finishWrite_ok (u := s.flushed h h') hp hports rfl n
    refine ⟨t, ?_, (unsent_of_ports hframe).trans (hl.unsent_flushed hf h'), ?_, ?_⟩
    · rw [if_pos hfull, hl.flush_ok hf hq hfree, bind_ok, ht]
      rfl
    · rw [hset]; split <;> rfl
    · rw [if_pos hfull]
      refine ⟨(congrArg State.fillPos hframe :), ⟨h, hf, (congrArg State.txq hframe :), ?_⟩, (congrArg State.evt hframe :)⟩
      have hlen : t.lenAt h = (s.flushed h h').lenAt h := (congrArg (State.lenAt · h) hframe :)
      rw [hlen, hl.lenAt_flushed hf h', hfull]
  · obtain ⟨t, ht, hframe, hset⟩ := finishWrite_ok (u := s) hp hports rfl n
    refine ⟨t, ?_, unsent_of_ports hframe, ?_, ?_⟩
    · rw [if_neg hfull, bind_ok, ht]
      rfl
    · rw [hset]; split <;> rfl
    · rw [if_neg hfull]
      exact ⟨(congrArg State.fillPos hframe :), (congrArg State.fill hframe :), (congrArg State.txq hframe :),
        (congrArg State.evt hframe :)⟩

/-! ### A FLUSH on an empty pool -/

theorem port_enterError_self {c : Cause} {p : Nat} {s : State} (hp : p < s.ports.length) :
    (enterError c (some p) s).port p = (s.port p).answered ⟨.fatal, (s.port p).releaseValue, []⟩ := by
  have hkept : (State.release { s with state := .error, errCause := some c } (some p)).port p = s.port p := by
    rw [release_port, if_pos rfl]
    rfl
  rw [enterError, State.respondOn, port_withPort_same (by simpa using hp), hkept]

theorem flushCore_of_empty_pool {s : State} {h : Nat} (hf : s.fill = some h) (hh : h < s.cfg.slots)
    (hq : s.txq.length ≠ s.cfg.qtx) (h0 : (s.withOwner h .txq).freeCount = 0) :
    flushCore s = .fatal .poolExhausted (s.enqueued h) := by
  have halloc : poolAlloc .fill (s.enqueued h) = .fatal .poolExhausted (s.enqueued h) := poolAlloc_of_empty h0
  simp only [State.enqueued] at halloc
  simp only [flushCore, hf, setLen, hh, not_true_eq_false, if_false, bind_ok, enqueue, State.queue, State.capacity, hq, setOwner,
    State.withQueue, State.withOwner, State.raiseTxp, halloc, bind_fatal, State.enqueued]

theorem freeCount_withOwner_of_empty {s : State} {h : Nat} {tag : Owner} (h0 : s.freeCount = 0) (htag : tag ≠ .free) :
    (s.withOwner h tag).freeCount = 0 := by
  refine List.count_eq_zero.2 fun hm => ?_
  rcases List.mem_or_eq_of_mem_set hm with hm | heq
  · exact List.count_eq_zero.1 h0 hm
  · exact htag heq.symm

/-- Settles O32: the packet is enqueued and the event raised before PoolAlloc finds the pool empty, and Error entry keeps both. -/
theorem flushOnEmptyPoolIsFatal : Obligations.FlushOnEmptyPoolIsFatal := by
  intro s h hp hr hpos hq hf hh h0 hwrite
  refine ⟨enterError .poolExhausted (some s.cur) (s.enqueued h), ?exec, rfl, rfl, rfl, rfl, rfl, rfl, ?port⟩
  case exec =>
    rw [exec_flush_of_room hr (Nat.ne_of_gt hpos) hq,
      flushCore_of_empty_pool hf hh (Nat.ne_of_lt hq) (freeCount_withOwner_of_empty h0 (by decide))]
    rfl
  case port =>
    refine (port_enterError_self (s := s.enqueued h) hp).trans ?_
    have hvalue : (s.port s.cur).releaseValue = 0 := by simp [Port.releaseValue, hwrite]
    exact congrArg (fun v => (s.port s.cur).answered ⟨.fatal, v, []⟩) hvalue

end Sys2Proof.Machine
end

section
/-! What PUT, WRITE and FLUSH leave alone, from every state and where they fault (41 R130 to R133). -/

namespace Sys2Proof.Machine

/-- The state with every register cleared that a command of the transmit path or Error entry writes. -/
def State.offTransmit (s : State) : State :=
  { s with
    state := .stopped, errCause := none, evt := { s.evt with txp := false }, owner := [], len := [], data := [], txq := []
    fill := none, fillPos := 0, ports := [] }

/-- Registers and slots that a step of the transmit path which stores `bs` leaves alone. -/
structure TransmitFrame (s t : State) (bs : List Byte) : Prop where
  rest : t.offTransmit = s.offTransmit
  data : ∀ a, Memory.read? t.data a = readAfterStore s bs a
  lens : ∀ h, s.fill ≠ some h → t.lenAt h = s.lenAt h
  owners : ∀ h, s.fill ≠ some h → t.fill ≠ some h → t.ownerAt h = s.ownerAt h

/-- The frame of a step that has not faulted: the control state is kept and of the ports only that of the step is written. -/
structure UnfaultedFrame (s t : State) (bs : List Byte) : Prop extends TransmitFrame s t bs where
  state : t.state = s.state
  cause : t.errCause = s.errCause
  ports : ∃ x, t.ports = s.ports.set s.cur x

/-- The frame before FLUSH_CORE: no slot has changed hands and no response is delivered. -/
structure StoredFrame (s t : State) (bs : List Byte) : Prop where
  rest : t.offTransmit = s.offTransmit
  data : ∀ a, Memory.read? t.data a = readAfterStore s bs a
  slots : t.len = s.len ∧ t.owner = s.owner ∧ t.fill = s.fill
  control : t.state = s.state ∧ t.errCause = s.errCause
  ports : ∃ x, t.ports = s.ports.set s.cur x ∧ x.replies = (s.port s.cur).replies

/-- The action ends with the frame of the bytes `bs`, and before a fatal fault has delivered no response. -/
def Res.Framed (s : State) (bs : List Byte) : Res Unit → Prop
  | .ok _ t => UnfaultedFrame s t bs
  | .fatal _ t => UnfaultedFrame s t bs ∧ ∃ x, t.ports = s.ports.set s.cur x ∧ x.replies = (s.port s.cur).replies
  | .stop _ => True

theorem readAfterStore_nil (s : State) (a : Nat) : readAfterStore s [] a = Memory.read? s.data a := by
  unfold readAfterStore
  cases s.fill with
  | none => rfl
  | some h => exact if_neg fun hin => Nat.not_lt.2 hin.1 hin.2

section

variable {s t u : State} {bs : List Byte}

theorem cur_of_rest (h : t.offTransmit = s.offTransmit) : t.cur = s.cur := (congrArg State.cur h :)

theorem StoredFrame.unfaulted (hu : StoredFrame s u bs) : UnfaultedFrame s u bs := by
  obtain ⟨hlen, howner, -⟩ := hu.slots
  obtain ⟨x, hx, -⟩ := hu.ports
  exact {
    rest := hu.rest
    data := hu.data
    lens := fun h _ => by rw [State.lenAt, hlen]; rfl
    owners := fun h _ _ => by rw [State.ownerAt, howner]; rfl
    state := hu.control.1
    cause := hu.control.2
    ports := ⟨x, hx⟩ }

theorem storedFrame_refl (s : State) : StoredFrame s s [] :=
  ⟨rfl, fun a => (readAfterStore_nil s a).symm, ⟨rfl, rfl, rfl⟩, ⟨rfl, rfl⟩, _, (ports_set_port s s.cur).symm, rfl⟩

/-- The port of the step may be written. -/
theorem UnfaultedFrame.withPort (ht : UnfaultedFrame s t bs) (x : Port) : UnfaultedFrame s (t.withPort t.cur x) bs := by
  obtain ⟨y, hy⟩ := ht.ports
  exact { ht with ports := ⟨x, by rw [withPort_ports, hy, cur_of_rest ht.rest, List.set_set]⟩ }

theorem withPort_port (s : State) (p : Nat) : s.withPort p (s.port p) = s := by
  rw [State.withPort, ports_set_port]

/-- The bytes of PUT and WRITE are appended on a state that differs from `s` in the port of the step only. -/
theorem storedFrame_append {x : Port} {r : Unit} (hx : x.replies = (s.port s.cur).replies)
    (hr : appendFill bs (s.withPort s.cur x) = .ok r t) : StoredFrame s t bs := by
  obtain ⟨h, hf, rfl⟩ := appendFill_cases hr
  have hf : s.fill = some h := hf
  refine ⟨rfl, fun a => ?_, ⟨rfl, rfl, rfl⟩, ⟨rfl, rfl⟩, x, rfl, hx⟩
  rw [readAfterStore, hf]
  exact Memory.read_writeAll s.data h s.fillPos a bs

/-- FLUSH_CORE, where it ends normally and where it is fatal, writes only the fill slot and the slot that takes its place. -/
theorem StoredFrame.framed_flushCore (hu : StoredFrame s u bs) : (flushCore u).Framed s bs := by
  obtain ⟨hlen, howner, hfill⟩ := hu.slots
  have hlens {h n : Nat} (hf : u.fill = some h) (v : State) (hv : v.len = u.len.set h n) (k : Nat) (hk : s.fill ≠ some k) :
      v.lenAt k = s.lenAt k := by
    have hkh : k ≠ h := fun he => hk (hfill ▸ he ▸ hf)
    rw [lenAt_set_other hv hkh, State.lenAt, hlen]
    rfl
  have howners {h : Nat} {tag : Owner} (hf : u.fill = some h) (k : Nat) (hk : s.fill ≠ some k) :
      (u.withOwner h tag).ownerAt k = s.ownerAt k := by
    have hkh : k ≠ h := fun he => hk (hfill ▸ he ▸ hf)
    rw [ownerAt_withOwner_other hkh, State.ownerAt, howner]
    rfl
  cases hr : flushCore u with
  | stop f => trivial
  | ok r t =>
    obtain ⟨h, h', hf, -, -, -, rfl⟩ := flushCore_cases hr
    refine { hu.unfaulted with rest := hu.rest, lens := hlens hf _ rfl, owners := fun k hk hk' => ?_ }
    have hkh' : k ≠ h' := fun he => hk' (he ▸ rfl)
    exact (ownerAt_withOwner_other (s := u.withOwner h .txq) hkh').trans (howners hf k hk)
  | fatal c t =>
    obtain ⟨h, hf, -, ⟨-, -, rfl⟩ | ⟨-, -, rfl⟩⟩ := flushCore_fatal hr
    · exact ⟨{ hu.unfaulted with rest := hu.rest, lens := hlens hf _ rfl }, hu.ports⟩
    · exact ⟨{ hu.unfaulted with rest := hu.rest, lens := hlens hf _ rfl, owners := fun k hk _ => howners hf k hk }, hu.ports⟩

theorem StoredFrame.framed_flush (hu : StoredFrame s u bs) {k : Unit → State → Res Unit}
    (hk : ∀ t, UnfaultedFrame s t bs → (k () t).Framed s bs) : ((flushCore u).bind k).Framed s bs := by
  have hflush := hu.framed_flushCore
  cases hr : flushCore u with
  | stop f => trivial
  | ok r t => rw [hr] at hflush; exact hk t hflush
  | fatal c t => rw [hr] at hflush; exact hflush

theorem StoredFrame.framed_flush_respond (hu : StoredFrame s u bs) (v : Word) :
    ((flushCore u).bind fun _ s => .ok () (s.respond .ok v [])).Framed s bs :=
  hu.framed_flush fun _ ht => ht.withPort _

theorem UnfaultedFrame.framed_finishWrite (ht : UnfaultedFrame s t bs) (n : Nat) :
    (if (t.port t.cur).done = n then Res.ok () (t.respond .ok (toRval n) []) else .ok () (t.withPhase .a)).Framed s bs := by
  split <;> exact ht.withPort _

theorem framed_append {x : Port} {k : Unit → State → Res Unit} (hx : x.replies = (s.port s.cur).replies)
    (hk : ∀ t, StoredFrame s t bs → (k () t).Framed s bs) : ((appendFill bs (s.withPort s.cur x)).bind k).Framed s bs := by
  cases hr : appendFill bs (s.withPort s.cur x) with
  | stop f => trivial
  | fatal c t => exact absurd hr appendFill_not_fatal
  | ok r t => exact hk t (storedFrame_append hx hr)

/-! ### The commands -/

theorem framed_putPhaseA (b : Byte) : (putPhaseA b s).Framed s [b] := by
  have hself : appendFill [b] s = appendFill [b] (s.withPort s.cur (s.port s.cur)) := by rw [withPort_port]
  rw [putPhaseA, hself]
  refine framed_append rfl fun t ht => ?_
  split
  · exact ht.unfaulted.withPort _
  split
  · exact ht.framed_flush_respond _
  · exact ht.unfaulted.withPort _

theorem framed_putPhaseB : (putPhaseB s).Framed s [] := by
  unfold putPhaseB
  split
  · exact (storedFrame_refl s).unfaulted.withPort _
  · exact (storedFrame_refl s).framed_flush_respond _

theorem writeChunk_of_complete {n : Nat} (hdone : (s.port s.cur).done = n) : s.writeChunk n = [] := by
  simp [State.writeChunk, hdone]

theorem framed_writePhaseA (n : Nat) : (writePhaseA n s).Framed s (s.writeChunk n) := by
  unfold writePhaseA
  split
  · rename_i hdone
    rw [writeChunk_of_complete hdone]
    exact (storedFrame_refl s).unfaulted.withPort _
  · refine framed_append rfl fun t ht => ?_
    split
    · exact ht.unfaulted.withPort _
    split
    · exact ht.framed_flush fun u hu => hu.framed_finishWrite n
    · exact ht.unfaulted.withPort _

theorem framed_writePhaseB (n : Nat) : (writePhaseB n s).Framed s [] := by
  unfold writePhaseB
  split
  · exact (storedFrame_refl s).framed_flush fun u hu => hu.framed_finishWrite n
  · exact (storedFrame_refl s).unfaulted.framed_finishWrite n

/-! ### The end of the step -/

/-- The step leaves alone what the statement of the frame says, with the bytes `bs` stored. -/
def TransmitKept (s t : State) (bs : List Byte) : Prop :=
  TransmitFrame s t bs
    ∧ ((t.state = s.state ∧ t.errCause = s.errCause ∧ OtherPortsSame s t s.cur) ∨ FaultedOn s t s.cur)

theorem UnfaultedFrame.kept (ht : UnfaultedFrame s t bs) : TransmitKept s t bs := by
  obtain ⟨x, hx⟩ := ht.ports
  refine ⟨ht.toTransmitFrame, .inl ⟨ht.state, ht.cause, fun q hq => ?_⟩⟩
  rw [hx, List.getElem?_set_ne hq.symm]

theorem Res.Framed.kept {r : Res Unit} (hr : r.Framed s bs) (hready : s.ready = true) (ht : r.endPort = .next t) :
    TransmitKept s t bs := by
  rcases endPort_cases ht with ⟨_, rfl⟩ | ⟨c, u, rfl, rfl⟩
  · exact UnfaultedFrame.kept hr
  obtain ⟨hu, x, hx, hreplies⟩ := hr
  have hcur := cur_of_rest hu.rest
  refine ⟨?_, .inr ⟨hready, enterError_state .., by simp, fun hp => ?_⟩⟩
  · rw [enterError_frame]
    exact { hu with }
  · have hp' : u.cur < u.ports.length := by rw [hcur, hx, List.length_set]; exact hp
    have hport : u.port u.cur = x := port_of_ports_set hp hx hcur
    have herr := port_enterError_self (c := c) hp'
    rw [hport, hcur] at herr
    rw [hcur, herr, answered_replies, hreplies]
    exact ⟨_, rfl⟩

theorem UnfaultedFrame.respond_kept (ht : UnfaultedFrame s t bs) (r : Rstat) (v : Word) (d : List Byte) :
    TransmitKept s (t.respond r v d) bs :=
  (ht.withPort _).kept

/-! ### The bytes a command stores -/

theorem storedBytes_eq_nil {i : Instr} (h : s.ready = false ∨ (s.port s.cur).phase = .b ∨ Config.pkt ≤ s.fillPos) :
    storedBytes i s = [] := by
  refine if_neg ?_
  rintro ⟨hr, hph, hroom⟩
  rcases h with h | h | h
  · exact nomatch h.symm.trans hr
  · exact nomatch h.symm.trans hph
  · exact Nat.not_lt.2 h hroom

theorem storedBytes_flush (s : State) : storedBytes .flush s = [] := by
  unfold storedBytes
  split <;> rfl

section

variable (hr : s.ready = true) (hph : (s.port s.cur).phase = .a) (hroom : s.fillPos < Config.pkt)

include hr hph hroom

theorem storedBytes_put (b : BitVec 8) : storedBytes (.put b) s = [b] := if_pos ⟨hr, hph, hroom⟩

theorem storedBytes_write (n : BitVec 24) : storedBytes (.write n) s = s.writeChunk n.toNat := if_pos ⟨hr, hph, hroom⟩

end

/-- A held command and a refused one store nothing, and the refused one responds. -/
theorem transmitKept_guarded {g : Bool} {v : Word} {o : Host.Outcome State Fault Refusal} {i : Instr}
    (hheld : g = false → storedBytes i s = [])
    (ho : g = true → s.ready = true → o = .next t → TransmitKept s t (storedBytes i s))
    (ht : (if !g then .next s else if !s.ready then .next (s.respond .notReady v []) else o) = .next t) :
    TransmitKept s t (storedBytes i s) := by
  cases g with
  | false =>
    cases ht
    rw [hheld rfl]
    exact (storedFrame_refl s).unfaulted.kept
  | true =>
    cases hr : s.ready with
    | false =>
      simp only [hr] at ht
      cases ht
      rw [storedBytes_eq_nil (.inl hr)]
      exact (storedFrame_refl s).unfaulted.respond_kept _ _ _
    | true =>
      simp only [hr] at ht
      exact ho rfl hr ht

theorem transmitKept_put {b : BitVec 8} (ht : exec (.put b) s = .next t) : TransmitKept s t (storedBytes (.put b) s) := by
  refine transmitKept_guarded (fun hg => ?_) (fun hg hr ht => ?_) ht
  · obtain ⟨-, hfull, -⟩ := putGuard_eq_false_iff.1 hg
    exact storedBytes_eq_nil (.inr (.inr hfull))
  cases hph : (s.port s.cur).phase with
  | a =>
    have hroom := (room_of_putGuard hg hr).resolve_right fun h => nomatch hph.symm.trans h.1
    simp only [hph] at ht
    rw [storedBytes_put hr hph hroom]
    exact (framed_putPhaseA b).kept hr ht
  | b =>
    simp only [hph] at ht
    rw [storedBytes_eq_nil (.inr (.inl hph))]
    exact framed_putPhaseB.kept hr ht

theorem transmitKept_write {n : BitVec 24} (ht : exec (.write n) s = .next t) : TransmitKept s t (storedBytes (.write n) s) := by
  refine transmitKept_guarded (fun hg => ?_) (fun hg hr ht => ?_) ht
  · obtain ⟨-, hfull, -⟩ := writeGuard_eq_false_iff.1 hg
    exact storedBytes_eq_nil (.inr (.inr hfull))
  cases hph : (s.port s.cur).phase with
  | a =>
    simp only [hph] at ht
    by_cases hroom : s.fillPos < Config.pkt
    · rw [storedBytes_write hr hph hroom]
      exact (framed_writePhaseA n.toNat).kept hr ht
    · have hdone : (s.port s.cur).done = n.toNat := by
        rcases room_of_writeGuard hg hr with h | ⟨-, h⟩ | ⟨h, -⟩
        · exact absurd h hroom
        · exact h
        · exact nomatch hph.symm.trans h
      rw [storedBytes_eq_nil (.inr (.inr (Nat.le_of_not_lt hroom))), ← writeChunk_of_complete hdone]
      exact (framed_writePhaseA n.toNat).kept hr ht
  | b =>
    simp only [hph] at ht
    rw [storedBytes_eq_nil (.inr (.inl hph))]
    exact (framed_writePhaseB n.toNat).kept hr ht

theorem transmitKept_flush (ht : exec .flush s = .next t) : TransmitKept s t (storedBytes .flush s) := by
  refine transmitKept_guarded (fun _ => storedBytes_flush s) (fun _ hr ht => ?_) ht
  rw [storedBytes_flush]
  split at ht
  · cases ht
    exact (storedFrame_refl s).unfaulted.respond_kept _ _ _
  · exact ((storedFrame_refl s).framed_flush_respond 0).kept hr ht

end

/-- Settles O57: the bytes go to the fill packet, FLUSH_CORE writes the fill slot and its successor, and a fault adds Error
entry. -/
theorem transmitCommandFrame : Obligations.TransmitCommandFrame := by
  intro i s t hi ht
  have hkept : TransmitKept s t (storedBytes i s) := by
    obtain ⟨b, rfl⟩ | ⟨n, rfl⟩ | rfl := hi
    · exact transmitKept_put ht
    · exact transmitKept_write ht
    · exact transmitKept_flush ht
  obtain ⟨⟨hrest, hdata, hlens, howners⟩, hend⟩ := hkept
  have hkeep {α : Type} (f : State → α) (hf : ∀ u, f u.offTransmit = f u := by intro _; rfl) : f t = f s := by
    rw [← hf t, hrest, hf s]
  refine ⟨⟨hkeep (·.cfg), hkeep (·.rtrace), hkeep (·.cur), hkeep (·.schedule), hkeep (·.ticks), hkeep (·.answers),
      hkeep (·.draws), hkeep (·.epoch)⟩,
    ⟨hkeep (·.cntIrq), hkeep (·.cntSent), hkeep (·.cntMaxRt), hkeep (·.cntRx)⟩, hkeep (·.role), hkeep (·.mode), hkeep (·.reuse),
    hkeep (·.rxdef), hkeep (·.stopPolls), hkeep (·.evt.stop), hkeep (·.evt.irq), hkeep (·.evt.fetch), hkeep (·.rxq),
    hkeep (·.drain), hkeep (·.drainPos), hdata, hlens, howners, hend⟩

end Sys2Proof.Machine
end

section
/-! The event loop adds every byte it receives to the end of the stream of unread bytes, and takes none off it (42 R165, 20 R73). -/

namespace Sys2Proof.Machine

/-- What the stream of unread bytes rests on: registers of their sizes, and tags that agree with the references. -/
structure UnreadHeld (s : State) : Prop where
  shaped : Shaped s
  tagged : Tagged s

theorem Consistent.unreadHeld {s : State} (hs : Consistent s) : UnreadHeld s := ⟨hs.shaped, hs.tags.tagged hs.shaped.owners⟩

theorem Shaped.of_cargo {s t : State} (hs : Shaped s) (h : t.cargo = s.cargo) : Shaped t := by
  have hcargo : Shaped s.cargo := { hs with }
  rw [← h] at hcargo
  exact { hcargo with }

theorem UnreadHeld.of_cargo {s t : State} (hs : UnreadHeld s) (h : t.cargo = s.cargo) : UnreadHeld t where
  shaped := hs.shaped.of_cargo h
  tagged := hs.tagged.of_refs (congrArg State.owner h :) (by rw [← refs_cargo, h, refs_cargo])

theorem unread_of_cargo {s t : State} (h : t.cargo = s.cargo) : t.unread = s.unread := (congrArg State.unread h :)

/-! ### A packet received -/

/-- The state after a packet with the bytes `bs` is received into slot `h`, last in the receive queue (44 R217). -/
def State.loaded (s : State) (h : Nat) (bs : List Byte) : State :=
  { s with
    data := Memory.writeAll s.data h 0 bs, len := s.len.set h bs.length, rxq := s.rxq ++ [h], owner := s.owner.set h .rxq }

/-- A packet's pass loads the bytes that the radio trace says were received. -/
theorem rxLoad_received {s t : State} {h n : Nat} {u : Unit} (hn : n ≤ Config.pkt)
    (hr : rxLoad h n (s.withOwner h .loading) = .ok u t) :
    ∃ bs, bs.length ≤ Config.pkt ∧ t.cargo = (s.loaded h bs).cargo ∧ t.rtrace = s.rtrace ++ [.rxPayload n bs] := by
  obtain ⟨-, -, rfl⟩ := rxLoad_cases hr
  have hlen : ((s.withOwner h .loading).answer.payload.toList.take n).length = n := by simpa using hn
  exact ⟨_, hlen.trans_le hn, by simp [State.cargo, State.loaded, hlen], by simp⟩

section

variable {s : State} {h : Nat} {bs : List Byte}

theorem UnreadHeld.loaded (hs : UnreadHeld s) (hfree : s.firstFree = some h) (hfit : bs.length ≤ Config.pkt) :
    UnreadHeld (s.loaded h bs) where
  shaped := { hs.shaped with
    owners := by simpa [State.loaded] using hs.shaped.owners
    lens := by simpa [State.loaded] using hs.shaped.lens
    lenBound := fun m hm => by
      rcases List.mem_or_eq_of_mem_set hm with hm | rfl
      · exact hs.shaped.lenBound m hm
      · exact hfit }
  tagged := (hs.tagged.free_to_rxq (owner_of_firstFree hfree)).of_refs rfl (funext fun tag => by cases tag <;> rfl)

/-- A load leaves alone every packet in a slot that is not the one loaded. -/
theorem Shaped.packet_loaded_other (hs : Shaped s) (hfit : bs.length ≤ Config.pkt) {k : Nat} (hk : k ≠ h) :
    (s.loaded h bs).packet k = s.packet k :=
  packet_congr (lenAt_set_other (n := bs.length) rfl hk) fun j hj =>
    byteAt_writeAll_outside (t := s.loaded h bs) rfl rfl (by simpa using hfit) (Nat.lt_of_lt_of_le hj (hs.lenAt_le k)) (.inl hk)

theorem packet_loaded_same (hh : h < s.len.length) : (s.loaded h bs).packet h = bs := by
  have hlen : (s.loaded h bs).lenAt h = bs.length := by rw [lenAt_of_set (n := bs.length) rfl hh, if_pos rfl]
  refine List.ext_getElem (by simp [State.packet, hlen]) fun j hj hj' => ?_
  simpa [State.packet] using byteAt_writeAll_inside (s := s) (t := s.loaded h bs) (k := h) (i := 0) rfl hj'

/-- The bytes of a packet received go to the end of the stream: its slot was free, so no packet of the stream lies there. -/
theorem UnreadHeld.unread_loaded (hs : UnreadHeld s) (hfree : s.firstFree = some h) (hfit : bs.length ≤ Config.pkt) :
    (s.loaded h bs).unread = s.unread ++ bs := by
  have hh : h < s.len.length := hs.shaped.lens ▸ hs.shaped.owners ▸ (firstFree_spec hfree).1
  have hkept {k : Nat} {tag : Owner} (hk : s.owner[k]? = some tag) (htag : tag ≠ .free) :
      (s.loaded h bs).packet k = s.packet k := by
    refine hs.shaped.packet_loaded_other hfit ?_
    rintro rfl
    exact htag (Option.some.inj (hk.symm.trans (owner_of_firstFree hfree)))
  have hdrain : (s.loaded h bs).drainBytes = s.drainBytes := by
    simp only [State.drainBytes, show (s.loaded h bs).drain = s.drain from rfl]
    cases hd : s.drain with
    | none => rfl
    | some k => exact congrArg (List.drop s.drainPos) (hkept (hs.tagged.owner_drain hd) nofun)
  have hqueued : s.rxq.flatMap (s.loaded h bs).packet = s.rxq.flatMap s.packet :=
    List.flatMap_congr fun k hk => hkept (hs.tagged.owner_rxq hk) nofun
  calc (s.loaded h bs).unread = (s.loaded h bs).drainBytes ++ (s.rxq ++ [h]).flatMap (s.loaded h bs).packet := rfl
    _ = s.unread ++ bs := by
      rw [List.flatMap_append, List.flatMap_singleton, hdrain, hqueued, packet_loaded_same hh, State.unread,
        List.append_assoc]

end

/-! ### The account -/

/-- The bytes received from the radio since `s₀` stand after the stream of `s₀`. -/
structure Received (s₀ t : State) : Prop where
  held : UnreadHeld t
  stream : ∃ new, t.rtrace = s₀.rtrace ++ new ∧ t.unread = s₀.unread ++ new.flatMap RadioTxn.received

theorem Consistent.received {s : State} (hs : Consistent s) : Received s s := ⟨hs.unreadHeld, [], by simp⟩

section

variable {s₀ s t : State} (hs : Received s₀ s)

include hs

theorem Received.of_step {new : List RadioTxn} (held : UnreadHeld t) (htrace : t.rtrace = s.rtrace ++ new)
    (hstream : t.unread = s.unread ++ new.flatMap RadioTxn.received) : Received s₀ t := by
  obtain ⟨old, hold, hbytes⟩ := hs.stream
  exact ⟨held, old ++ new, by rw [htrace, hold, List.append_assoc],
    by rw [hstream, hbytes, List.flatMap_append, List.append_assoc]⟩

theorem Received.of_noBytes (h : NoBytes s t) : Received s₀ t := by
  obtain ⟨new, htrace, hnew⟩ := h.trace
  have hnone : new.flatMap RadioTxn.received = [] := List.flatMap_eq_nil_iff.2 fun x hx => (hnew x hx).2
  exact hs.of_step (hs.held.of_cargo h.cargo) htrace (by rw [hnone, unread_of_cargo h.cargo, List.append_nil])

/-- A packet handed to the radio leaves the receive side alone. -/
theorem Received.of_send {kind : TxKind} {more : Bool} (hr : txOne kind s = .ok more t) : Received s₀ t := by
  obtain ⟨h, rest, x, hq, hcargo, htrace, -, hreceived⟩ := txOne_handed hr
  have held : UnreadHeld { s with txq := rest, owner := s.owner.set h .free } :=
    ⟨{ hs.held.shaped with owners := by simpa using hs.held.shaped.owners }, hs.held.tagged.txq_to_free hq⟩
  refine hs.of_step (held.of_cargo hcargo) htrace ?_
  rw [unread_of_cargo hcargo, List.flatMap_singleton, hreceived, List.append_nil]
  rfl

theorem Received.of_load {h n : Nat} {u : Unit} (hfree : s.firstFree = some h) (hn : n ≤ Config.pkt)
    (hr : rxLoad h n (s.withOwner h .loading) = .ok u t) : Received s₀ t := by
  obtain ⟨bs, hfit, hcargo, htrace⟩ := rxLoad_received hn hr
  refine hs.of_step ((hs.held.loaded hfree hfit).of_cargo hcargo) htrace ?_
  rw [unread_of_cargo hcargo, hs.held.unread_loaded hfree hfit, List.flatMap_singleton]
  rfl

end

theorem received_loopInvariant (s₀ : State) : LoopInvariant (Received s₀) where
  quiet := Received.of_noBytes
  load hs hfree hn := ends_true_iff.2 fun _ _ hr => hs.of_load hfree hn hr
  send hs := ends_true_iff.2 fun _ _ hr => hs.of_send hr

/-- Settles O44: only the load of a packet adds to the stream or takes from it, and from the invariant no step of the loop faults. -/
theorem receiveByteAccounting : Obligations.ReceiveByteAccounting := by
  intro s t hs hready ht
  have hstop : s.state ≠ .stopping := fun h => by simp [State.ready, h] at hready
  exact (((received_loopInvariant s).kept_or_error hs.received hstop ht).resolve_right (hs.elStep_not_error ht)).stream

end Sys2Proof.Machine
end

section
/-! GET, READ and AVAIL (spec 42), from the invariant. -/

namespace Sys2Proof.Machine

/-! ### The stream of unread bytes as AVAIL counts it (42 R164) -/

section

variable {s : State}

@[simp] theorem packet_length (s : State) (h : Nat) : (s.packet h).length = s.lenAt h := by simp [State.packet]

@[simp] theorem drainBytes_length (s : State) : s.drainBytes.length = s.drainRemainder := by
  unfold State.drainBytes State.drainRemainder
  cases s.drain <;> simp

theorem unread_length (s : State) : s.unread.length = s.available := by
  simp [State.unread, State.available, List.length_flatMap, Nat.add_comm]

theorem unread_of_drain {h : Nat} (hd : s.drain = some h) :
    s.unread = (s.packet h).drop s.drainPos ++ s.rxq.flatMap s.packet := by
  rw [State.unread, State.drainBytes, hd]

theorem unread_of_none (hd : s.drain = none) : s.unread = s.rxq.flatMap s.packet := by
  rw [State.unread, State.drainBytes, hd, List.nil_append]

theorem drainRemainder_of_drain {h : Nat} (hd : s.drain = some h) : s.drainRemainder = s.lenAt h - s.drainPos := by
  rw [State.drainRemainder, hd]

/-- The unread bytes of a consistent state are few enough for a response value: at most 32 in each packet, and fewer than 2^26 packets
(00 R7). -/
theorem Consistent.available_lt (hs : Consistent s) : s.available < 2 ^ 32 := by
  obtain ⟨-, -, -, hqrx, -⟩ := (Config.wellFormed_iff s.cfg).1 hs.shaped.config
  have hroom := hs.ranges.rxq
  have hqueued : (s.rxq.map s.lenAt).sum ≤ s.rxq.length * 32 := by
    simpa using List.sum_le_card_nsmul (s.rxq.map s.lenAt) 32 (by simpa using fun h _ => hs.shaped.lenAt_le h)
  have hdrain : s.drainRemainder ≤ 32 := by
    unfold State.drainRemainder
    cases s.drain with
    | none => exact Nat.zero_le _
    | some h => exact Nat.le_trans (Nat.sub_le _ _) (hs.shaped.lenAt_le h)
  unfold State.available
  omega

theorem toRval_of_lt {n : Nat} (hn : n < 2 ^ 32) : toRval n = BitVec.ofNat 32 n := if_pos hn

end

/-- Settles O22: the estimate is the length of the stream, and it fits the response value. -/
theorem availCountsUnreadBytes : Obligations.AvailCountsUnreadBytes := by
  intro s hs hr
  rw [unread_length, ← toRval_of_lt hs.available_lt]
  simp only [exec, execAvail, hr]
  rfl

/-! ### Bytes taken off the stream -/

/-- The bytes `bs` are taken off the front of the stream, and the loop is signalled exactly where packets left the receive queue
(42 R160, R165). -/
structure Takes (s t : State) (bs : List Byte) : Prop where
  stream : s.unread = bs ++ t.unread
  queue : t.rxq.length ≤ s.rxq.length
  event : t.evt = { s.evt with fetch := s.evt.fetch || decide (t.rxq.length < s.rxq.length) }

/-- The packets that hold the unread bytes. -/
def State.packets (s : State) : Nat := s.rxq.length + s.drain.toList.length

theorem packets_of_none {s : State} (hd : s.drain = none) : s.packets = s.rxq.length := by simp [State.packets, hd]

theorem packets_of_drain {s : State} (hd : s.drain ≠ none) : s.packets = s.rxq.length + 1 := by
  obtain ⟨h, hd⟩ := Option.ne_none_iff_exists'.1 hd
  simp [State.packets, hd]

theorem packets_eq_zero_iff {s : State} : s.packets = 0 ↔ s.drain = none ∧ s.rxq = [] := by
  simp [State.packets, and_comm]

section

variable {s t u : State} {h : Nat}

theorem takes_of_queue_eq {bs : List Byte} (hstream : s.unread = bs ++ t.unread) (hq : t.rxq = s.rxq) (he : t.evt = s.evt) :
    Takes s t bs :=
  ⟨hstream, by rw [hq], by simp [hq, he]⟩

theorem takes_refl (s : State) : Takes s s [] := takes_of_queue_eq rfl rfl rfl

theorem Takes.trans {bs cs : List Byte} (h : Takes s t bs) (hu : Takes t u cs) : Takes s u (bs ++ cs) where
  stream := by rw [h.stream, hu.stream, List.append_assoc]
  queue := hu.queue.trans h.queue
  event := by
    have hqueue := h.queue
    have hqueue' := hu.queue
    have hshorter : u.rxq.length < s.rxq.length ↔ t.rxq.length < s.rxq.length ∨ u.rxq.length < t.rxq.length := by omega
    rw [hu.event, h.event]
    simp [hshorter, Bool.or_assoc]

/-- ADOPT moves no byte: the oldest packet of the queue is now the drain packet, all of it unread (42 R160). -/
theorem adopt_takes {r : Unit} (hd : s.drain = none) (hr : adopt s = .ok r t) : Takes s t [] ∧ t.packets = s.packets := by
  obtain ⟨h, rest, hq, -, rfl⟩ := adopt_cases hr
  refine ⟨⟨?_, by simp [hq], by simp [hq]⟩, by simp [State.packets, hd, hq]⟩
  rw [unread_of_none hd, hq]
  rfl

theorem adoptIfNone_takes {r : Unit} (hr : adoptIfNone s = .ok r t) : Takes s t [] ∧ t.packets = s.packets := by
  unfold adoptIfNone at hr
  split at hr
  · exact adopt_takes (Option.isNone_iff_eq_none.1 ‹_›) hr
  · cases hr
    exact ⟨takes_refl s, rfl⟩

/-- The next `k` unread bytes of a packet, and those after them. -/
theorem packet_drop_eq_append {p k : Nat} (hk : k ≤ s.lenAt h - p) :
    (s.packet h).drop p = (List.range k).map (fun j => s.byteAt h (p + j)) ++ (s.packet h).drop (p + k) := by
  have htake : ((s.packet h).drop p).take k = (List.range k).map fun j => s.byteAt h (p + j) :=
    List.ext_getElem (by simpa using hk) fun j hj hj' => by simp [State.packet]
  rw [← htake, ← List.drop_drop, List.take_append_drop]

/-- CONSUME takes the oldest `k` bytes off the stream, and with the last byte of the drain packet the packet (42 R161). -/
theorem consume_takes {k : Nat} {out : List Byte} (hr : consume k s = .ok out t) :
    Takes s t out ∧ out.length = k ∧ t.rxq = s.rxq ∧ (k = s.drainRemainder → t.drain = none) := by
  obtain ⟨h, hd, hk1, hk, rfl, ht⟩ := consume_cases hr
  have hunread : s.unread = (List.range k).map (fun j => s.byteAt h (s.drainPos + j))
      ++ ((s.packet h).drop (s.drainPos + k) ++ s.rxq.flatMap s.packet) := by
    rw [unread_of_drain hd, packet_drop_eq_append hk, List.append_assoc]
  rcases ht with ⟨hlast, -, -, rfl⟩ | ⟨hlast, rfl⟩
  · refine ⟨takes_of_queue_eq ?_ rfl rfl, by simp, rfl, fun _ => rfl⟩
    rw [List.drop_of_length_le (i := s.drainPos + k) (by simp [hlast])] at hunread
    exact hunread
  · refine ⟨takes_of_queue_eq ?_ rfl rfl, by simp, rfl, fun he => ?_⟩
    · exact hunread.trans (congrArg _ (unread_of_drain (s := { s with drainPos := s.drainPos + k }) hd).symm)
    · exact absurd (he.trans (drainRemainder_of_drain hd)) (by omega)

end

/-! ### GET (42 R162) -/

theorem Res.Ends.exists_ok {α : Type} {Q : α → State → Prop} {r : Res α} (hr : r.Ends False Q) : ∃ a s, r = .ok a s ∧ Q a s := by
  cases r with
  | ok a s => exact ⟨a, s, rfl, hr⟩
  | fatal c s => exact hr.elim
  | stop f => exact hr.elim

section

variable {s : State}

/-- From the invariant, with a packet to read, the drain packet is there or is adopted. -/
theorem Live.adoptIfNone_ok (hs : Live Consistent s) (h : s.drain ≠ none ∨ s.rxq ≠ []) :
    ∃ t, adoptIfNone s = .ok () t ∧ Live Consistent t ∧ t.drain ≠ none ∧ Takes s t [] ∧ t.packets = s.packets := by
  obtain ⟨⟨⟩, t, hr, ht, hd⟩ := (consistent_stepInvariant.ends_adoptIfNone hs h).exists_ok
  exact ⟨t, hr, ht, hd, adoptIfNone_takes hr⟩

theorem Live.drainRemainder_pos (hs : Live Consistent s) (hd : s.drain ≠ none) : 1 ≤ s.drainRemainder := by
  obtain ⟨h, hd⟩ := Option.ne_none_iff_exists'.1 hd
  have := hs.holds.ranges.drainPos h hd
  rw [drainRemainder_of_drain hd]
  omega

/-- From the invariant, CONSUME of bytes that the drain packet has left takes them off the stream. -/
theorem Live.consume_ok {k : Nat} (hs : Live Consistent s) (hd : s.drain ≠ none) (hk1 : 1 ≤ k) (hk : k ≤ s.drainRemainder) :
    ∃ out t, consume k s = .ok out t ∧ Live Consistent t ∧ Takes s t out ∧ out.length = k ∧ t.rxq = s.rxq
      ∧ (k = s.drainRemainder → t.drain = none) := by
  obtain ⟨out, t, hr, ht⟩ := (live_consume hs hd fun _ => ⟨hk1, hk⟩).exists_ok
  exact ⟨out, t, hr, ht, consume_takes hr⟩

/-- A response after an action that leaves the ports alone is the one change to them. -/
theorem answeredOnly_respond {t : State} (hp : s.cur < s.ports.length) (hf : t.front = s.front) (r : Rstat) (v : Word)
    (d : List Byte) : AnsweredOnly s (t.respond r v d) s.cur ⟨r, v, d⟩ := by
  obtain ⟨-, -, hports, hcur⟩ := front_eq_iff.1 hf
  exact ⟨hp, by rw [respond_ports, hports, hcur, State.port, State.port, hports]⟩

theorem exec_get_of_packet (hr : s.ready = true) (h : s.drain ≠ none ∨ s.rxq ≠ []) :
    exec .get s = ((adoptIfNone s).bind fun _ s => (consume 1 s).bind fun out s =>
      Res.ok () (s.respond .ok ((out.headD 0).setWidth 32) [])).endPort := by
  have hg : s.getGuard = true := by simpa [State.getGuard, hr, Option.isSome_iff_ne_none] using h
  simp [exec, execGet, hg, hr]

theorem exec_read_of_packet {maxN : BitVec 24} (hr : s.ready = true) (h : maxN = 0 ∨ s.drain ≠ none ∨ s.rxq ≠ []) :
    exec (.read maxN) s = ((readLoop maxN.toNat (s.rxq.length + 1) [] s).bind fun out s =>
      Res.ok () (s.respond .ok (toRval out.length) out)).endPort := by
  have hg : s.readGuard maxN.toNat = true := by
    simpa [State.readGuard, hr, Option.isSome_iff_ne_none, BitVec.toNat_eq, or_assoc] using h
  simp [exec, execRead, hg, hr]

end

/-- Settles O20: the drain packet is there or is adopted, which moves no byte, and one byte of it is consumed. -/
theorem getReturnsOldestByte : Obligations.GetReturnsOldestByte := by
  intro s hs hp hr hsome
  obtain ⟨s1, hadopt, hs1, hd1, htakes1, hpackets⟩ := (Live.of_ready hs hr).adoptIfNone_ok hsome
  obtain ⟨out, t, hconsume, -, htakes2, hlen, hq, -⟩ := hs1.consume_ok hd1 (Nat.le_refl 1) (hs1.drainRemainder_pos hd1)
  obtain ⟨b, rfl⟩ := List.length_eq_one_iff.1 hlen
  have htakes : Takes s t [b] := htakes1.trans htakes2
  have hfront : t.front = s.front := (front_consume hconsume).trans (front_adoptIfNone hadopt)
  refine ⟨b, t.unread, t.respond .ok (b.setWidth 32) [], htakes.stream, ?exec,
    answeredOnly_respond (cur_lt_ports hs hp) hfront _ _ _, rfl, htakes.event.trans ?event⟩
  case exec =>
    rw [exec_get_of_packet hr hsome, hadopt, bind_ok, hconsume, bind_ok]
    rfl
  case event =>
    have hadopted : decide (t.rxq.length < s.rxq.length) = s.drain.isNone := by
      rw [packets_of_drain hd1, ← hq] at hpackets
      cases hd : s.drain with
      | none =>
        rw [packets_of_none hd] at hpackets
        exact decide_eq_true (by omega)
      | some h =>
        rw [packets_of_drain (s := s) (by simp [hd])] at hpackets
        exact decide_eq_false (by omega)
    rw [hadopted]

/-! ### The loop of READ (42 R163) -/

section

variable {s : State} {maxN fuel : Nat} {out : List Byte}

/-- The loop of READ ends where enough bytes are taken or no packet is left. -/
theorem readLoop_of_done (h : maxN ≤ out.length ∨ s.packets = 0) : readLoop maxN fuel out s = .ok out s := by
  cases fuel with
  | zero => rfl
  | succ fuel =>
    rw [packets_eq_zero_iff] at h
    rcases h with h | ⟨hd, hq⟩
    · rw [readLoop, if_pos (Nat.not_lt.2 h)]
    · simp [readLoop, hd, hq]

theorem readLoop_of_more (hmore : out.length < maxN) (h : s.packets ≠ 0) :
    readLoop maxN (fuel + 1) out s = (adoptIfNone s).bind fun _ s =>
      (consume (min (maxN - out.length) s.drainRemainder) s).bind fun bs s => readLoop maxN fuel (out ++ bs) s := by
  rw [readLoop, if_neg (not_not.2 hmore), if_neg (by simpa [packets_eq_zero_iff] using h)]

/-- Nothing is left to take where enough bytes are taken or no packet is left. -/
theorem take_unread_of_done (h : maxN ≤ out.length ∨ s.packets = 0) : s.unread.take (maxN - out.length) = [] := by
  rw [packets_eq_zero_iff] at h
  rcases h with h | ⟨hd, hq⟩
  · rw [Nat.sub_eq_zero_of_le h, List.take_zero]
  · rw [unread_of_none hd, hq, List.flatMap_nil, List.take_nil]

/-- From the invariant, the loop of READ with a pass for every packet takes the bytes still wanted off the stream, or all there are. -/
theorem Live.readLoop_ok (hs : Live Consistent s) (hfuel : out.length < maxN → s.packets ≤ fuel) :
    ∃ t, readLoop maxN fuel out s = .ok (out ++ s.unread.take (maxN - out.length)) t
      ∧ Takes s t (s.unread.take (maxN - out.length)) := by
  induction fuel generalizing out s with
  | zero =>
    have hdone : maxN ≤ out.length ∨ s.packets = 0 := by omega
    rw [readLoop_of_done hdone, take_unread_of_done hdone, List.append_nil]
    exact ⟨s, rfl, takes_refl s⟩
  | succ fuel ih =>
    by_cases hdone : maxN ≤ out.length ∨ s.packets = 0
    · rw [readLoop_of_done hdone, take_unread_of_done hdone, List.append_nil]
      exact ⟨s, rfl, takes_refl s⟩
    obtain ⟨hmore, hsome⟩ := not_or.1 hdone
    have hsome' : s.drain ≠ none ∨ s.rxq ≠ [] := by simpa [packets_eq_zero_iff, imp_iff_not_or] using hsome
    obtain ⟨s1, hadopt, hs1, hd1, htakes1, hpackets⟩ := hs.adoptIfNone_ok hsome'
    have hrem := hs1.drainRemainder_pos hd1
    obtain ⟨bs, s2, hconsume, hs2, htakes2, hlen, hq, hlast⟩ :=
      hs1.consume_ok (k := min (maxN - out.length) s1.drainRemainder) hd1 (by omega) (Nat.min_le_right _ _)
    -- a pass that leaves bytes wanted has read its packet to the end
    have hfuel2 (hmore2 : (out ++ bs).length < maxN) : s2.packets ≤ fuel := by
      rw [List.length_append] at hmore2
      have hfuel := hfuel (by omega)
      rw [← hpackets, packets_of_drain hd1] at hfuel
      rw [packets_of_none (hlast (by omega)), hq]
      exact Nat.le_of_succ_le_succ hfuel
    obtain ⟨t, hloop, htakes3⟩ := ih hs2 hfuel2
    have htakes := htakes1.trans (htakes2.trans htakes3)
    have htake : s.unread.take (maxN - out.length) = bs ++ s2.unread.take (maxN - (out ++ bs).length) := by
      rw [htakes1.stream, htakes2.stream, List.nil_append, List.take_append, List.take_of_length_le (by omega),
        List.length_append, Nat.sub_sub]
    rw [readLoop_of_more (Nat.lt_of_not_le hmore) hsome, hadopt, bind_ok, hconsume, bind_ok, hloop, htake, List.append_assoc]
    exact ⟨t, rfl, htakes⟩

end

/-- Settles O21: the loop takes the first bytes of the stream, as many as are wanted, and the response carries them. -/
theorem readTakesUnreadPrefix : Obligations.ReadTakesUnreadPrefix := by
  intro s maxN hs hp hr hsome
  have hfuel : s.packets ≤ s.rxq.length + 1 := by
    cases hd : s.drain with
    | none => exact Nat.le_succ_of_le (packets_of_none hd).le
    | some h => exact (packets_of_drain (by simp [hd])).le
  obtain ⟨t, hloop, htakes⟩ :=
    (Live.of_ready hs hr).readLoop_ok (maxN := maxN.toNat) (out := []) fun _ => hfuel
  simp only [List.nil_append, List.length_nil, Nat.sub_zero] at hloop htakes
  have hlen : (s.unread.take maxN.toNat).length = min maxN.toNat s.unread.length := List.length_take
  have hval : toRval (s.unread.take maxN.toNat).length = BitVec.ofNat 32 (min maxN.toNat s.unread.length) := by
    rw [toRval_of_lt (by omega), hlen]
  refine ⟨t.respond .ok _ (s.unread.take maxN.toNat), ?exec, answeredOnly_respond (cur_lt_ports hs hp) (front_readLoop hloop) _ _ _,
    ?rest, htakes.event⟩
  case exec =>
    rw [exec_read_of_packet hr hsome, hloop, bind_ok, hval]
    rfl
  case rest => exact List.append_cancel_left ((List.take_append_drop _ _).trans htakes.stream).symm

end Sys2Proof.Machine
end

section
/-! What GET and READ leave alone, from every state and where they fault (42 R160 to R163). -/

namespace Sys2Proof.Machine

/-- The state with every register cleared that GET, READ or Error entry writes. -/
def State.offReceive (s : State) : State :=
  { s with
    state := .stopped, errCause := none, evt := { s.evt with fetch := false }, owner := [], rxq := [], drain := none
    drainPos := 0, ports := [] }

/-- Slot `h` is the drain packet's or that of a packet in the receive queue. -/
def State.Unreads (s : State) (h : Nat) : Prop := s.drain = some h ∨ h ∈ s.rxq

/-- Registers and slots that a GET or READ leaves alone. -/
structure ReceiveFrame (s t : State) : Prop where
  rest : t.offReceive = s.offReceive
  owners : ∀ h, ¬ s.Unreads h → t.ownerAt h = s.ownerAt h

/-- The frame before the end of the step: the ports and the control state are kept too, and no packet comes to the receive side. -/
structure DrainFrame (s t : State) : Prop extends ReceiveFrame s t where
  front : t.front = s.front
  cause : t.errCause = s.errCause
  slots : ∀ h, t.Unreads h → s.Unreads h

/-- The block has raised DOUBLE_FREE past the last byte of a drain packet whose slot is free (42 R161, 00 R13). -/
def DoubleFreed (t : State) : Prop := ∃ h, t.drain = some h ∧ t.drainPos = t.lenAt h ∧ t.ownerAt h = .free

/-- The action ends with the frame, and a fatal end is DOUBLE_FREE. -/
def Res.Drains {α : Type} (s : State) : Res α → Prop
  | .ok _ t => DrainFrame s t
  | .fatal c t => DrainFrame s t ∧ c = .doubleFree ∧ DoubleFreed t
  | .stop _ => True

theorem Res.bind_assoc {α β γ : Type} (r : Res α) (k : α → State → Res β) (l : β → State → Res γ) :
    (r.bind k).bind l = r.bind fun a s => (k a s).bind l := by
  cases r <;> rfl

theorem drainFrame_refl (s : State) : DrainFrame s s := ⟨⟨rfl, fun _ _ => rfl⟩, rfl, rfl, fun _ h => h⟩

section

variable {s t u : State}

theorem DrainFrame.trans (ht : DrainFrame s t) (hu : DrainFrame t u) : DrainFrame s u where
  rest := hu.rest.trans ht.rest
  owners h hh := (hu.owners h (mt (ht.slots h) hh)).trans (ht.owners h hh)
  front := hu.front.trans ht.front
  cause := hu.cause.trans ht.cause
  slots h hh := ht.slots h (hu.slots h hh)

theorem Res.Drains.bind {α β : Type} {r : Res α} {k : α → State → Res β} (hr : r.Drains s)
    (hk : ∀ a t, r = .ok a t → (k a t).Drains t) : (r.bind k).Drains s := by
  cases r with
  | stop f => trivial
  | fatal c t => exact hr
  | ok a t =>
    have hk := hk a t rfl
    rw [bind_ok]
    cases hr' : k a t with
    | stop f => trivial
    | ok b u => rw [hr'] at hk; exact DrainFrame.trans hr hk
    | fatal c u => rw [hr'] at hk; exact ⟨DrainFrame.trans hr hk.1, hk.2⟩

/-! ### The operations -/

theorem drains_adopt (hq : s.rxq ≠ []) : (adopt s).Drains s := by
  cases hr : adopt s with
  | stop f => trivial
  | fatal c t => exact absurd (adopt_fatal hr).1 hq
  | ok r t =>
    have hfront := front_adopt hr
    obtain ⟨h, rest, hq, -, rfl⟩ := adopt_cases hr
    have hh : s.Unreads h := .inr (by simp [hq])
    refine ⟨⟨rfl, fun k hk => ?_⟩, hfront, rfl, ?_⟩
    · exact ownerAt_withOwner_other fun he => hk (he ▸ hh)
    · rintro k (hk | hk)
      · exact Option.some.inj hk ▸ hh
      · exact .inr (hq ▸ List.mem_cons_of_mem h hk)

theorem drains_adoptIfNone (h : s.drain ≠ none ∨ s.rxq ≠ []) : (adoptIfNone s).Drains s := by
  unfold adoptIfNone
  split
  · rename_i hd
    exact drains_adopt (h.resolve_left (not_not.2 (Option.isNone_iff_eq_none.1 hd)))
  · exact drainFrame_refl s

/-- CONSUME frees the slot of the drain packet at most, and where it is fatal has moved `DRAINPOS` only. -/
theorem drains_consume (k : Nat) : (consume k s).Drains s := by
  cases hr : consume k s with
  | stop f => trivial
  | fatal c t =>
    obtain ⟨h, hd, -, -, hfree, rfl, rfl⟩ := consume_fatal hr
    exact ⟨⟨⟨rfl, fun _ _ => rfl⟩, rfl, rfl, fun _ hk => hk⟩, rfl, h, hd, rfl, hfree⟩
  | ok out t =>
    have hfront := front_consume hr
    obtain ⟨h, hd, -, -, -, ⟨-, -, -, rfl⟩ | ⟨-, rfl⟩⟩ := consume_cases hr
    · exact ⟨⟨rfl, fun k hk => ownerAt_withOwner_other fun he => hk (.inl (he ▸ hd))⟩, hfront, rfl,
        fun k hk => .inr (hk.resolve_left nofun)⟩
    · exact ⟨⟨rfl, fun _ _ => rfl⟩, hfront, rfl, fun _ hk => hk⟩

theorem drains_readLoop (maxN fuel : Nat) (out : List Byte) : (readLoop maxN fuel out s).Drains s := by
  induction fuel generalizing out s with
  | zero => exact drainFrame_refl s
  | succ fuel ih =>
    by_cases hdone : maxN ≤ out.length ∨ s.packets = 0
    · rw [readLoop_of_done hdone]
      exact drainFrame_refl s
    obtain ⟨hmore, hsome⟩ := not_or.1 hdone
    rw [readLoop_of_more (Nat.lt_of_not_le hmore) hsome]
    exact (drains_adoptIfNone (by simpa [packets_eq_zero_iff, imp_iff_not_or] using hsome)).bind fun _ _ _ =>
      (drains_consume _).bind fun _ _ _ => ih _

/-! ### The end of the step -/

/-- The step leaves alone what the statement of the frame says. -/
def ReceiveKept (s t : State) : Prop :=
  ReceiveFrame s t
    ∧ ((t.state = s.state ∧ t.errCause = s.errCause ∧ OtherPortsSame s t s.cur)
      ∨ (FaultedOn s t s.cur ∧ t.errCause = some .doubleFree ∧ DoubleFreed t))

theorem receiveKept_refl (s : State) : ReceiveKept s s :=
  ⟨(drainFrame_refl s).toReceiveFrame, .inl ⟨rfl, rfl, fun _ _ => rfl⟩⟩

theorem DrainFrame.respond_kept (ht : DrainFrame s t) (r : Rstat) (v : Word) (d : List Byte) :
    ReceiveKept s (t.respond r v d) := by
  obtain ⟨hstate, -, hports, hcur⟩ := front_eq_iff.1 ht.front
  refine ⟨{ ht with }, .inl ⟨hstate, ht.cause, fun q hq => ?_⟩⟩
  rw [respond_ports, hports, hcur, List.getElem?_set_ne hq.symm]

theorem DrainFrame.fault_kept (ht : DrainFrame s t) (hready : s.ready = true) (hfree : DoubleFreed t) :
    ReceiveKept s (enterError .doubleFree (some t.cur) t) := by
  obtain ⟨-, -, hports, hcur⟩ := front_eq_iff.1 ht.front
  refine ⟨?_, .inr ⟨⟨hready, enterError_state .., by simp, fun hp => ?_⟩, enterError_errCause .., ?_⟩⟩
  · rw [enterError_frame]
    exact { ht with }
  · have hport : t.port s.cur = s.port s.cur := by rw [State.port, State.port, hports]
    rw [hcur, port_enterError_self (by rw [hports]; exact hp), answered_replies, hport]
    exact ⟨_, rfl⟩
  · rw [enterError_frame]
    exact hfree

/-- A command whose bytes are taken by `r` ends with its response, or in the fault of `r`. -/
theorem Res.Drains.kept {α : Type} {r : Res α} {v : α → Word} {d : α → List Byte} (hr : r.Drains s) (hready : s.ready = true)
    (ht : (r.bind fun a s => .ok () (s.respond .ok (v a) (d a))).endPort = .next t) : ReceiveKept s t := by
  cases r with
  | stop f => cases ht
  | ok a u =>
    cases ht
    exact DrainFrame.respond_kept hr _ _ _
  | fatal c u =>
    cases ht
    obtain ⟨hu, rfl, hfree⟩ := hr
    exact hu.fault_kept hready hfree

/-- A held command keeps everything, and a refused one responds. -/
theorem receiveKept_guarded {g : Bool} {v : Word} {o : Host.Outcome State Fault Refusal}
    (ho : g = true → s.ready = true → o = .next t → ReceiveKept s t)
    (ht : (if !g then .next s else if !s.ready then .next (s.respond .notReady v []) else o) = .next t) : ReceiveKept s t := by
  cases g with
  | false =>
    cases ht
    exact receiveKept_refl s
  | true =>
    cases hr : s.ready with
    | false =>
      simp only [hr] at ht
      cases ht
      exact (drainFrame_refl s).respond_kept _ _ _
    | true =>
      simp only [hr] at ht
      exact ho rfl hr ht

/-! ### The commands -/

theorem receiveKept_get (ht : exec .get s = .next t) : ReceiveKept s t := by
  refine receiveKept_guarded (fun hg hr ht => ?_) ht
  have hsome : s.drain ≠ none ∨ s.rxq ≠ [] := by simpa [State.getGuard, hr, Option.isSome_iff_ne_none] using hg
  rw [← Res.bind_assoc] at ht
  exact ((drains_adoptIfNone hsome).bind fun _ _ _ => drains_consume 1).kept hr ht

theorem receiveKept_read {maxN : BitVec 24} (ht : exec (.read maxN) s = .next t) : ReceiveKept s t :=
  receiveKept_guarded (fun _ hr ht => (drains_readLoop _ _ _).kept hr ht) ht

end

/-! ### The fault -/

theorem poolFree_of_free {handle : Option Nat} {s : State} {h : Nat} (hhandle : handle = some h) (hh : h < s.cfg.slots)
    (hfree : s.ownerAt h = .free) : poolFree handle s = .fatal .doubleFree s := by
  rw [hhandle, poolFree_some, if_neg (Nat.not_le.2 hh), if_pos hfree]

/-- The last byte of a drain packet whose slot is free: PoolFree is fatal, with `DRAINPOS` past the byte. -/
theorem consume_doubleFree {s : State} {h k : Nat} (hd : s.drain = some h) (hh : h < s.cfg.slots) (hfree : s.ownerAt h = .free)
    (hfit : s.lenAt h ≤ 32) (hk : 1 ≤ k) (hlast : s.drainPos + k = s.lenAt h) :
    consume k s = .fatal .doubleFree { s with drainPos := s.lenAt h } := by
  have hpool (n : Nat) : poolFree s.drain { s with drainPos := n } = .fatal .doubleFree { s with drainPos := n } :=
    poolFree_of_free hd hh hfree
  have hrange : 1 ≤ k ∧ k ≤ s.lenAt h - s.drainPos := by omega
  unfold consume
  split
  · rename_i hnone
    exact nomatch hd.symm.trans hnone
  · rename_i h' hd'
    obtain rfl : h = h' := Option.some.inj (hd.symm.trans hd')
    rw [if_neg (not_not.2 hrange), readBytes_ok hh (hlast.le.trans hfit), bind_ok]
    refine (if_pos hlast).trans ?_
    rw [hpool, hlast, bind_fatal]

/-- Settles O58: every operation of GET and READ keeps the frame, CONSUME alone can be fatal, and it is so on the last byte of a drain
packet whose slot is free. -/
theorem receiveCommandFrame : Obligations.ReceiveCommandFrame := by
  refine ⟨fun i s t hi ht => ?frame, fun s h maxN hr hd hh hfree hpos hfit => ?fault⟩
  case frame =>
    have hkept : ReceiveKept s t := by
      obtain rfl | ⟨maxN, rfl⟩ := hi
      · exact receiveKept_get ht
      · exact receiveKept_read ht
    obtain ⟨⟨hrest, howners⟩, hend⟩ := hkept
    have hkeep {α : Type} (f : State → α) (hf : ∀ u, f u.offReceive = f u := by intro _; rfl) : f t = f s := by
      rw [← hf t, hrest, hf s]
    exact ⟨⟨hkeep (·.cfg), hkeep (·.rtrace), hkeep (·.cur), hkeep (·.schedule), hkeep (·.ticks), hkeep (·.answers),
        hkeep (·.draws), hkeep (·.epoch)⟩,
      ⟨hkeep (·.cntIrq), hkeep (·.cntSent), hkeep (·.cntMaxRt), hkeep (·.cntRx)⟩, hkeep (·.role), hkeep (·.mode), hkeep (·.reuse),
      hkeep (·.rxdef), hkeep (·.stopPolls), hkeep (·.evt.stop), hkeep (·.evt.irq), hkeep (·.evt.txp), hkeep (·.txq),
      hkeep (·.fill), hkeep (·.fillPos), hkeep (·.len), fun a => hkeep fun u => Memory.read? u.data a,
      fun k hk hk' => howners k (not_or.2 ⟨hk, hk'⟩), hend⟩
  case fault =>
    have hsome : s.drain ≠ none := by simp [hd]
    have hadopt : adoptIfNone s = .ok () s := by simp [adoptIfNone, hd]
    refine ⟨fun hlast => ?get, fun hmax => ?read⟩
    case get =>
      rw [exec_get_of_packet hr (.inl hsome), hadopt, bind_ok, consume_doubleFree hd hh hfree hfit (Nat.le_refl 1) hlast]
      rfl
    case read =>
      have hmin : min (maxN.toNat - ([] : List Byte).length) s.drainRemainder = s.lenAt h - s.drainPos := by
        rw [drainRemainder_of_drain hd]
        exact Nat.min_eq_right hmax
      have hmore : ([] : List Byte).length < maxN.toNat := by
        rw [List.length_nil]
        omega
      rw [exec_read_of_packet hr (.inr (.inl hsome)), readLoop_of_more hmore (by simp [packets_of_drain hsome]), hadopt, bind_ok, hmin,
        consume_doubleFree hd hh hfree hfit (by omega) (by omega)]
      rfl

end Sys2Proof.Machine
end

section
/-! START, STOP and RESET on the port whose step this is (43 R180, R182, R184): the state each leads to, and all that each can do. -/

namespace Sys2Proof.Machine

/-- The state after START in STOPPED, before its response (43 R180). -/
def State.started (s : State) (m : Mode) : State :=
  { s with
    state := .starting, mode := m, owner := .fill :: List.replicate (s.cfg.slots - 1) .free, txq := [], rxq := []
    fill := some 0, fillPos := 0, drain := none, drainPos := 0, evt := {}, reuse := false, rxdef := false, stopPolls := 0 }

/-- The state after STOP in a Ready state, before any response (43 R182). -/
def State.stopping (s : State) : State := { s with state := .stopping, evt := { s.evt with stop := true }, stopPolls := 0 }

/-- The state after RESET in ERROR, before its response (43 R184). -/
def State.recovered (s : State) : State :=
  { s with
    state := .stopped, errCause := none, owner := List.replicate s.cfg.slots .free, txq := [], rxq := [], fill := none
    fillPos := 0, drain := none, drainPos := 0, evt := {}, reuse := false, rxdef := false, stopPolls := 0 }

theorem slots_pos_of_wellFormed {c : Config} (hc : c.wellFormed = true) : 0 < c.slots := by
  obtain ⟨hslots, -⟩ := (Config.wellFormed_iff c).1 hc
  omega

section

variable {s t : State} {mode : BitVec 2} {m : Mode}

/-- The lowest slot of a pool all free is slot 0 (40 R112). -/
theorem firstFree_of_all_free {n : Nat} (ho : s.owner = List.replicate (n + 1) .free) : s.firstFree = some 0 := by
  simp [State.firstFree, ho, List.replicate_succ, List.findIdx?_cons]

theorem startUp_ok (hslots : 0 < s.cfg.slots) : startUp m s = .ok () ((s.started m).respond .ok 0 []) := by
  obtain ⟨n, hn⟩ := Nat.exists_eq_add_one_of_ne_zero hslots.ne'
  have hfree : State.firstFree { s with state := .starting, mode := m }.poolDestroy.clearFlags = some 0 :=
    firstFree_of_all_free (n := n) (by simp [hn])
  rw [startUp, poolAlloc, hfree, bind_ok]
  simp [State.started, State.withOwner, State.poolDestroy, State.clearFlags, hn, List.replicate_succ]

theorem exec_start_of_stopped (hm : modeOf mode = some m) (hs : s.state = .stopped) (hslots : 0 < s.cfg.slots) :
    exec (.start mode) s = .next ((s.started m).respond .ok 0 []) := by
  simp [exec, execStart, hm, hs, startUp_ok hslots, Res.endPort]

theorem exec_start_of_not_stopped (hm : modeOf mode = some m) (hs : s.state ≠ .stopped) :
    exec (.start mode) s = .next (s.respond .rejected 0 []) := by
  simp [exec, execStart, hm, hs]

theorem exec_start_cases (hslots : 0 < s.cfg.slots) (ht : exec (.start mode) s = .next t) :
    (∃ m, s.state = .stopped ∧ t = (s.started m).respond .ok 0 []) ∨ ∃ r, t = s.respond r 0 [] := by
  cases hm : modeOf mode with
  | none =>
    simp only [exec, execStart, hm] at ht
    exact .inr ⟨.illegal, (Host.Outcome.next.inj ht).symm⟩
  | some m =>
    by_cases hs : s.state = .stopped
    · rw [exec_start_of_stopped hm hs hslots] at ht
      exact .inl ⟨m, hs, (Host.Outcome.next.inj ht).symm⟩
    · rw [exec_start_of_not_stopped hm hs] at ht
      exact .inr ⟨.rejected, (Host.Outcome.next.inj ht).symm⟩

theorem exec_stop_of_ready (hr : s.ready = true) :
    exec .stop s = .next ((s.stopping.release (some s.cur)).respond .ok 0 []) := by
  simp only [exec, execStop, hr]
  rfl

theorem exec_stop_cases (ht : exec .stop s = .next t) :
    (s.ready = true ∧ t = (s.stopping.release (some s.cur)).respond .ok 0 []) ∨ t = s.respond .rejected 0 [] := by
  cases hr : s.ready with
  | true =>
    rw [exec_stop_of_ready hr] at ht
    exact .inl ⟨rfl, (Host.Outcome.next.inj ht).symm⟩
  | false =>
    simp only [exec, execStop, hr] at ht
    exact .inr (Host.Outcome.next.inj ht).symm

theorem exec_reset_of_error (hs : s.state = .error) : exec .reset s = .next (s.recovered.respond .ok 0 []) := by
  simp only [exec, execReset, hs]
  rfl

theorem exec_reset_of_not_error (hs : s.state ≠ .error) : exec .reset s = .next (s.respond .rejected 0 []) := by
  simp [exec, execReset, hs]

theorem exec_reset_cases (ht : exec .reset s = .next t) :
    (s.state = .error ∧ t = s.recovered.respond .ok 0 []) ∨ t = s.respond .rejected 0 [] := by
  by_cases hs : s.state = .error
  · rw [exec_reset_of_error hs] at ht
    exact .inl ⟨hs, (Host.Outcome.next.inj ht).symm⟩
  · rw [exec_reset_of_not_error hs] at ht
    exact .inr (Host.Outcome.next.inj ht).symm

end

end Sys2Proof.Machine
end

section
/-! The event loop in a Ready state leaves `STATE` alone but for the turns of ADHOC (43 R189; 44 R216, R219, R222). -/

namespace Sys2Proof.Machine

/-- `MODE` is kept, and `STATE` too but for a turn to a Ready state in ADHOC. -/
structure TurnsInAdhoc (s t : State) : Prop where
  mode : t.mode = s.mode
  state : t.state = s.state ∨ s.mode = .adhoc ∧ t.ready = true

theorem turnsInAdhoc_of_eq {s t : State} (hmode : t.mode = s.mode) (hstate : t.state = s.state) : TurnsInAdhoc s t :=
  ⟨hmode, .inl hstate⟩

theorem turnsInAdhoc_refl (s : State) : TurnsInAdhoc s s := turnsInAdhoc_of_eq rfl rfl

theorem TurnsInAdhoc.trans {s t u : State} (h : TurnsInAdhoc s t) (hu : TurnsInAdhoc t u) : TurnsInAdhoc s u := by
  refine ⟨hu.mode.trans h.mode, ?_⟩
  rcases hu.state with hstate | ⟨hmode, hr⟩
  · simpa only [State.ready, hstate] using h.state
  · exact .inr ⟨h.mode ▸ hmode, hr⟩

/-! ### The operations of the loop -/

theorem turnsInAdhoc_radioPoll (b : Bool) (s : State) : TurnsInAdhoc s (radioPoll b s).2 :=
  turnsInAdhoc_of_eq (drawn_mode s) (drawn_state s)

theorem turnsInAdhoc_radioTxFull (s : State) : TurnsInAdhoc s (radioTxFull s).2 :=
  turnsInAdhoc_of_eq (drawn_mode s) (drawn_state s)

theorem turnsInAdhoc_radioTxEmpty (s : State) : TurnsInAdhoc s (radioTxEmpty s).2 :=
  turnsInAdhoc_of_eq (drawn_mode s) (drawn_state s)

theorem turnsInAdhoc_rxLength (s : State) : TurnsInAdhoc s (rxLength s).2 := by
  unfold rxLength
  split
  · exact turnsInAdhoc_of_eq (drawn_mode s) (drawn_state s)
  · exact turnsInAdhoc_refl s

theorem turnsInAdhoc_dropPacket (s : State) : TurnsInAdhoc s (dropPacket s).2 := by
  unfold dropPacket
  simp only
  split
  · rename_i hmode
    split <;> exact ⟨rfl, .inr ⟨hmode, rfl⟩⟩
  · exact turnsInAdhoc_of_eq rfl rfl

theorem turnsInAdhoc_retry (s : State) : TurnsInAdhoc s (retry s).2 := by
  unfold retry
  split
  · exact turnsInAdhoc_dropPacket s
  · exact turnsInAdhoc_of_eq rfl rfl

theorem turnsInAdhoc_iterSwitch (fellBack : Bool) (s : State) : TurnsInAdhoc s (iterSwitch fellBack s) := by
  unfold iterSwitch
  split
  · rename_i hif
    exact ⟨rfl, .inr ⟨hif.1, rfl⟩⟩
  · exact turnsInAdhoc_refl s

theorem turnsInAdhoc_iterTurnaround (s : State) : TurnsInAdhoc s (iterTurnaround s) := by
  have he := turnsInAdhoc_radioTxEmpty s
  unfold iterTurnaround turnaround
  split
  · rename_i hif
    simp only
    split
    · exact ⟨he.mode, .inr ⟨hif.1, rfl⟩⟩
    · exact he
  · exact turnsInAdhoc_refl s

theorem turnsInAdhoc_rxLoad {h n : Nat} {s t : State} {u : Unit} (hr : rxLoad h n s = .ok u t) : TurnsInAdhoc s t := by
  obtain ⟨-, -, rfl⟩ := rxLoad_cases hr
  exact turnsInAdhoc_of_eq (drawn_mode s) (drawn_state s)

theorem turnsInAdhoc_txOne {kind : TxKind} {s t : State} {more : Bool} (hr : txOne kind s = .ok more t) : TurnsInAdhoc s t := by
  obtain ⟨h, rest, x, -, hcargo, -⟩ := txOne_handed hr
  exact turnsInAdhoc_of_eq (congrArg State.mode hcargo :) (congrArg Prod.fst (control_txOne hr) :)

/-! ### The parts of EL_ITER (44 R212) -/

section

variable {s₀ s : State} (hs : TurnsInAdhoc s₀ s)

include hs

theorem turnsInAdhoc_rxFillLoop (fuel : Nat) (avail : Bool) :
    (rxFillLoop fuel avail s).Ends True fun _ => TurnsInAdhoc s₀ := by
  induction fuel generalizing avail s with
  | zero => exact hs
  | succ fuel ih =>
    have hl := hs.trans (turnsInAdhoc_rxLength s)
    unfold rxFillLoop
    split
    · exact { hs with }
    split
    · exact { hs with }
    simp only
    split
    · exact { hl with }
    rcases poolTryAlloc_cases .loading (rxLength s).2 with ⟨-, ha⟩ | ⟨h, -, ha⟩ <;> rw [ha, bind_ok]
    · exact { hl with }
    · have htag : TurnsInAdhoc s₀ ((rxLength s).2.withOwner h .loading) := { hl with }
      exact Res.Ends.bind (ends_true_iff.2 fun _ _ hr => htag.trans (turnsInAdhoc_rxLoad hr)) fun _ t ht =>
        ih (ht.trans (turnsInAdhoc_radioPoll false t)) _

theorem turnsInAdhoc_handleIrq : (handleIrq s).Ends True fun _ => TurnsInAdhoc s₀ := by
  have hp := hs.trans (turnsInAdhoc_radioPoll true s)
  unfold handleIrq
  simp only
  generalize hs1 : (if (radioPoll true s).1.dataSent then _ else _ : State) = s1
  have h1 : TurnsInAdhoc s₀ s1.countMaxRt := by
    subst hs1
    split <;> exact { hp with }
  generalize hr : (if (radioPoll true s).1.maxRetriesExceeded then _ else _ : Bool × State) = r
  have h2 : TurnsInAdhoc s₀ r.2 := by
    subst hr
    split
    · split
      · exact h1.trans (turnsInAdhoc_retry s1.countMaxRt)
      · exact h1
    · exact { h1 with }
  split
  · exact (turnsInAdhoc_rxFillLoop (s := r.2.countRx) { h2 with } _ _).bind fun _ _ ht => ht
  · exact h2

theorem turnsInAdhoc_iterIrq (ev : Evt) : (iterIrq ev s).Ends True fun _ => TurnsInAdhoc s₀ := by
  unfold iterIrq
  split
  · exact turnsInAdhoc_handleIrq hs
  · exact hs

theorem turnsInAdhoc_iterFetch (ev : Evt) : (iterFetch ev s).Ends True fun _ => TurnsInAdhoc s₀ := by
  unfold iterFetch
  split
  · exact turnsInAdhoc_rxFillLoop (hs.trans (turnsInAdhoc_radioPoll false s)) _ _
  · exact hs

theorem turnsInAdhoc_txDrain : (txDrain s).Ends True fun _ => TurnsInAdhoc s₀ :=
  ends_txDrain_of (fun t ht => ht.trans (turnsInAdhoc_radioTxFull t))
    (fun ht => ends_true_iff.2 fun _ _ hr => ht.trans (turnsInAdhoc_txOne hr)) hs

end

theorem turnsInAdhoc_elIter (s : State) : (elIter s).Ends True fun _ => TurnsInAdhoc s :=
  (turnsInAdhoc_iterIrq (s₀ := s) (s := s.consumeEvents) (turnsInAdhoc_of_eq rfl rfl) _).bind fun _ _ h1 =>
    (turnsInAdhoc_iterFetch h1 _).bind fun _ t h2 =>
      (turnsInAdhoc_txDrain (h2.trans (turnsInAdhoc_iterSwitch _ t))).bind fun _ u h3 =>
        h3.trans (turnsInAdhoc_iterTurnaround u)

end Sys2Proof.Machine
end

section
/-! Every change of `STATE` is an arc of the transition table (43 R189, O49). -/

namespace Sys2Proof.Machine

/-- `STATE` is kept, or changes along an arc of the table for the agent `e`. -/
def AlongArc (e : Event) (s t : State) : Prop := t.state = s.state ∨ arc e s.mode s.state t.state = true

section

variable {s t : State} {p : Nat}

/-! ### The arcs that several commands take -/

theorem ready_eq_true_iff : s.ready = true ↔ s.state = .receiving ∨ s.state = .transmitting := by
  unfold State.ready
  cases s.state <;> simp

/-- In a Ready state a port may take the arc to STOPPING and the one to ERROR. -/
theorem arc_port_of_ready (hr : s.ready = true) :
    arc (.port p) s.mode s.state .stopping = true ∧ arc (.port p) s.mode s.state .error = true := by
  rcases ready_eq_true_iff.1 hr with h | h <;> rw [h] <;> exact ⟨rfl, rfl⟩

theorem FaultedOn.alongArc (h : FaultedOn s t s.cur) : AlongArc (.port p) s t := by
  obtain ⟨hr, herr, -⟩ := h
  rw [AlongArc, herr]
  exact .inr (arc_port_of_ready hr).2

theorem TransmitKept.alongArc {bs : List Byte} (h : TransmitKept s t bs) : AlongArc (.port p) s t := by
  obtain ⟨-, ⟨hstate, -⟩ | hfault⟩ := h
  · exact .inl hstate
  · exact hfault.alongArc

theorem ReceiveKept.alongArc (h : ReceiveKept s t) : AlongArc (.port p) s t := by
  obtain ⟨-, ⟨hstate, -⟩ | ⟨hfault, -⟩⟩ := h
  · exact .inl hstate
  · exact hfault.alongArc

/-! ### A port's command -/

theorem alongArc_start {mode : BitVec 2} (hslots : 0 < s.cfg.slots) (ht : exec (.start mode) s = .next t) :
    AlongArc (.port p) s t := by
  rcases exec_start_cases hslots ht with ⟨m, hs, rfl⟩ | ⟨r, rfl⟩
  · rw [AlongArc, hs]
    exact .inr rfl
  · exact .inl rfl

theorem alongArc_stop (ht : exec .stop s = .next t) : AlongArc (.port p) s t := by
  rcases exec_stop_cases ht with ⟨hr, rfl⟩ | rfl
  · exact .inr (arc_port_of_ready hr).1
  · exact .inl rfl

theorem alongArc_reset (ht : exec .reset s = .next t) : AlongArc (.port p) s t := by
  rcases exec_reset_cases ht with ⟨hs, rfl⟩ | rfl
  · rw [AlongArc, hs]
    exact .inr rfl
  · exact .inl rfl

theorem alongArc_observe {i : Instr} (hi : i = .avail ∨ (∃ sel, i = .stats sel) ∨ ∃ sel, i = .status sel)
    (ht : exec i s = .next t) : AlongArc (.port p) s t := by
  obtain ⟨r, v, d, rfl⟩ := respond_of_exec_observe hi ht
  exact .inl rfl

theorem alongArc_exec {i : Instr} (hslots : 0 < s.cfg.slots) (ht : exec i s = .next t) : AlongArc (.port p) s t := by
  cases i with
  | put b => exact (transmitKept_put ht).alongArc
  | write n => exact (transmitKept_write ht).alongArc
  | flush => exact (transmitKept_flush ht).alongArc
  | get => exact (receiveKept_get ht).alongArc
  | read maxN => exact (receiveKept_read ht).alongArc
  | start mode => exact alongArc_start hslots ht
  | stop => exact alongArc_stop ht
  | reset => exact alongArc_reset ht
  | avail => exact alongArc_observe (.inl rfl) ht
  | stats sel => exact alongArc_observe (.inr (.inl ⟨sel, rfl⟩)) ht
  | status sel => exact alongArc_observe (.inr (.inr ⟨sel, rfl⟩)) ht

theorem alongArc_portStep (hslots : 0 < s.cfg.slots) (ht : portStep p s = .next t) : AlongArc (.port p) s t := by
  unfold portStep at ht
  split at ht
  · split at ht
    · exact alongArc_exec (s := { s with cur := p }) hslots ht
    · cases ht
      exact .inl rfl
  · cases ht
    exact .inl rfl

/-! ### The event loop -/

/-- A fault of the loop takes the arc to ERROR from every state in which the loop runs. -/
theorem alongArc_endLoop {r : Res Unit} (hen : s.elEnabled ≠ none) (hr : r.Ends True fun _ => AlongArc .el s)
    (ht : r.endLoop = .next t) : AlongArc .el s t := by
  rcases endLoop_cases ht with ⟨u, hu⟩ | ⟨c, s', -, rfl⟩
  · exact ends_true_iff.1 hr u t hu
  · rw [AlongArc, enterError_state]
    cases hst : s.state <;> simp_all [State.elEnabled, arc]

theorem alongArc_elStart (hs : s.state = .starting) : (elStart s).Ends True fun _ => AlongArc .el s := by
  unfold elStart AlongArc
  rw [hs]
  cases s.mode <;> exact .inr rfl

/-- Between the Ready states the table has an arc each way in ADHOC. -/
theorem TurnsInAdhoc.alongArc (h : TurnsInAdhoc s t) (hr : s.ready = true) : AlongArc .el s t := by
  rcases h.state with hstate | ⟨hmode, hr'⟩
  · exact .inl hstate
  · rw [AlongArc, hmode]
    rcases ready_eq_true_iff.1 hr with h | h <;> rcases ready_eq_true_iff.1 hr' with h' | h' <;> simp [h, h', arc]

theorem alongArc_elIter (hr : s.ready = true) : (elIter s).Ends True fun _ => AlongArc .el s :=
  ends_true_iff.2 fun u t hu => (ends_true_iff.1 (turnsInAdhoc_elIter s) u t hu).alongArc hr

theorem alongArc_elStep (ht : elStep s = .next t) : AlongArc .el s t := by
  cases hst : s.state with
  | stopped | error =>
    simp only [elStep, State.elEnabled, hst] at ht
    cases ht
    exact .inl rfl
  | starting =>
    simp only [elStep, State.elEnabled, hst] at ht
    exact alongArc_endLoop (by simp [State.elEnabled, hst]) (alongArc_elStart hst) ht
  | stopping =>
    rw [AlongArc, hst]
    rcases elStep_of_stopping hst ht with h | h | h <;> simp [h, arc]
  | receiving | transmitting =>
    cases hev : s.evt.pending with
    | false =>
      simp only [elStep, State.elEnabled, hst, hev] at ht
      cases ht
      exact .inl rfl
    | true =>
      simp only [elStep, State.elEnabled, hst, hev] at ht
      exact alongArc_endLoop (by simp [State.elEnabled, hst, hev]) (alongArc_elIter (by simp [State.ready, hst])) ht

/-! ### The agents (00 R8) -/

theorem alongArc_takeEvent {e : Event} (hslots : 0 < s.cfg.slots) (ht : takeEvent e s = .next t) : AlongArc e s t := by
  cases e with
  | port p => exact alongArc_portStep hslots ht
  | el => exact alongArc_elStep ht
  | irq =>
    cases ht
    left
    split <;> rfl
  | host p w payload =>
    simp only [takeEvent, hostStep] at ht
    left
    split at ht
    · split at ht <;> cases ht
      rfl
    · cases ht
      rfl
  | rst =>
    cases ht
    exact .inr (by cases s.state <;> rfl)

end

/-- Settles O49: a port changes `STATE` by START, STOP, RESET or a fault, the loop by its start, the turns of ADHOC, the end of the stop
drain or a fault, and `RST` from every state. -/
theorem transitionTable : Obligations.TransitionTable := by
  intro s t ht
  by_cases hc : s.cfg.wellFormed = true
  · rw [step_of_wellFormed hc] at ht
    have harc : AlongArc s.nextEvent s.chosen t := alongArc_takeEvent (by simpa using slots_pos_of_wellFormed hc) ht
    simpa only [AlongArc, chosen_state, chosen_mode] using harc
  · rw [step_of_not_wellFormed hc] at ht
    cases ht

end Sys2Proof.Machine
end

section
/-! The lifecycle commands as the rules give them (43 R180, R182 to R184, R188) and what START, STOP and RESET leave alone. -/

namespace Sys2Proof.Machine

/-! ### The words of the commands with a narrow operand (30 R80, R81) -/

theorem word_setWidth {k : Nat} (hk : k ≤ 24) (op : BitVec 4) (b : BitVec k) :
    word op (b.setWidth 24) = BitVec.ofNat 32 (op.toNat * 2 ^ 28) + b.setWidth 32 := by
  have hb : b.toNat < 2 ^ 24 := Nat.lt_of_lt_of_le b.isLt (Nat.pow_le_pow_right (by decide) hk)
  apply BitVec.eq_of_toNat_eq
  rw [word_toNat, BitVec.toNat_add, BitVec.toNat_ofNat, BitVec.toNat_setWidth, BitVec.toNat_setWidth]
  omega

/-! ### An illegal word (43 R188) -/

theorem portStep_of_decode_illegal {s : State} {p : Nat} {r : Reject} (hp : p < s.cfg.nport) (hb : (s.port p).busy = true)
    (hd : decode (s.port p).cmd = .illegal r) : portStep p s = respondIllegal { s with cur := p } := by
  simp [portStep, hp, hb, hd]

/-- Settles O7: the word is decoded before anything else, and the response is all that the step writes. -/
theorem illegalWordAnswered : Obligations.IllegalWordAnswered := fun _ _ _ hp hb hd => portStep_of_decode_illegal hp hb hd

/-! ### START and RESET (43 R180, R184) -/

theorem modeOf_code (m : Mode) : modeOf m.code = some m := by
  cases m <;> rfl

/-- Settles O25: from STOPPED the pool of a well-formed configuration has slot 0 to take. -/
theorem startLeavesStopped : Obligations.StartLeavesStopped := by
  intro s m hc hp
  refine ⟨word_setWidth (by decide) 7 m.code, fun hs => ?stopped, fun hs => exec_start_of_not_stopped (modeOf_code m) hs⟩
  case stopped =>
    exact ⟨(s.started m).respond .ok 0 [], exec_start_of_stopped (modeOf_code m) hs (slots_pos_of_wellFormed hc), ⟨hp, rfl⟩, rfl⟩

/-- Settles O27, by whether the state is ERROR. -/
theorem resetLeavesError : Obligations.ResetLeavesError :=
  ⟨rfl, fun s hp => ⟨fun hs => ⟨s.recovered.respond .ok 0 [], exec_reset_of_error hs, ⟨hp, rfl⟩, rfl⟩, exec_reset_of_not_error⟩⟩

/-! ### STOP (43 R182, R183) -/

theorem released_eq (pt : Port) :
    pt.released =
      if pt.busy = true ∧ (decode pt.cmd).byteStream = true then
        pt.answered ⟨.notReady, if (decode pt.cmd).isWrite = true then toRval pt.done else 0, []⟩
      else pt := by
  simp [Port.released, Port.releaseValue]

/-- A release that keeps the port of the step, followed by that port's response. -/
theorem port_release_respond {s : State} {q : Nat} (hp : s.cur < s.ports.length) (r : Rstat) (v : Word) (d : List Byte) :
    ((s.release (some s.cur)).respond r v d).port q =
      if q = s.cur then (s.port q).answered ⟨r, v, d⟩ else (s.port q).released := by
  unfold State.respond State.respondOn
  split
  · rename_i hq
    subst hq
    rw [release_cur, port_withPort_same (by simpa using hp), release_port, if_pos rfl]
  · rename_i hq
    have hkeep : some s.cur ≠ some q := fun h => hq (Option.some.inj h).symm
    rw [release_cur, port_withPort_other hq, release_port, if_neg hkeep]

/-- Settles O26: the release answers every other port that holds a byte-stream command, and keeps the port of the STOP for its own
response. -/
theorem stopReleasesCallers : Obligations.StopReleasesCallers := by
  intro s hp hr
  refine ⟨(s.stopping.release (some s.cur)).respond .ok 0 [], exec_stop_of_ready hr, rfl, by simp [State.stopping], fun q _ => ?port⟩
  case port =>
    have hport := port_release_respond (s := s.stopping) (q := q) hp .ok 0 []
    rwa [released_eq] at hport

/-! ### What the three commands leave alone -/

/-- The state with every register cleared that START, STOP or RESET writes. -/
def State.offLifecycle (s : State) : State :=
  { s with
    state := .stopped, mode := .ptxOnly, errCause := none, evt := {}, reuse := false, rxdef := false, stopPolls := 0, owner := []
    txq := [], rxq := [], fill := none, fillPos := 0, drain := none, drainPos := 0, ports := [] }

theorem otherPortsSame_of_set {s t : State} {x : Port} (h : t.ports = s.ports.set s.cur x) : OtherPortsSame s t s.cur := by
  intro q hq
  rw [h, List.getElem?_set_ne hq.symm]

section

variable {s t : State}

theorem lifecycleKept_start {mode : BitVec 2} (hslots : 0 < s.cfg.slots) (ht : exec (.start mode) s = .next t) :
    t.offLifecycle = s.offLifecycle ∧ t.errCause = s.errCause ∧ OtherPortsSame s t s.cur := by
  rcases exec_start_cases hslots ht with ⟨m, -, rfl⟩ | ⟨r, rfl⟩ <;> exact ⟨rfl, rfl, otherPortsSame_of_set rfl⟩

theorem lifecycleKept_stop (ht : exec .stop s = .next t) :
    t.offLifecycle = s.offLifecycle ∧ t.mode = s.mode ∧ t.errCause = s.errCause ∧ PacketsSame s t ∧ t.reuse = s.reuse
      ∧ t.rxdef = s.rxdef ∧ t.evt.irq = s.evt.irq ∧ t.evt.txp = s.evt.txp ∧ t.evt.fetch = s.evt.fetch := by
  rcases exec_stop_cases ht with ⟨-, rfl⟩ | rfl <;>
    exact ⟨rfl, rfl, rfl, ⟨rfl, rfl, rfl, rfl, rfl, rfl, rfl, rfl, rfl⟩, rfl, rfl, rfl, rfl, rfl⟩

theorem lifecycleKept_reset (ht : exec .reset s = .next t) :
    t.offLifecycle = s.offLifecycle ∧ t.mode = s.mode ∧ OtherPortsSame s t s.cur := by
  rcases exec_reset_cases ht with ⟨-, rfl⟩ | rfl <;> exact ⟨rfl, rfl, otherPortsSame_of_set rfl⟩

end

/-- Settles O60: each command leads to its own state or to a response on the port of the step, and neither writes what the statement
lists. -/
theorem lifecycleCommandFrame : Obligations.LifecycleCommandFrame := by
  intro i s t hi hc ht
  have hrest : t.offLifecycle = s.offLifecycle := by
    obtain ⟨mode, rfl⟩ | rfl | rfl := hi
    · exact (lifecycleKept_start (slots_pos_of_wellFormed hc) ht).1
    · exact (lifecycleKept_stop ht).1
    · exact (lifecycleKept_reset ht).1
  have hkeep {α : Type} (f : State → α) (hf : ∀ u, f u.offLifecycle = f u := by intro _; rfl) : f t = f s := by
    rw [← hf t, hrest, hf s]
  refine ⟨⟨hkeep (·.cfg), hkeep (·.rtrace), hkeep (·.cur), hkeep (·.schedule), hkeep (·.ticks), hkeep (·.answers),
      hkeep (·.draws), hkeep (·.epoch)⟩,
    ⟨hkeep (·.cntIrq), hkeep (·.cntSent), hkeep (·.cntMaxRt), hkeep (·.cntRx)⟩, hkeep (·.role), hkeep (·.len),
    fun a => hkeep fun u => Memory.read? u.data a, ?mode, ?cause, ?stop, ?ports⟩
  case mode =>
    rintro (rfl | rfl)
    · obtain ⟨-, hmode, -⟩ := lifecycleKept_stop ht
      exact hmode
    · obtain ⟨-, hmode, -⟩ := lifecycleKept_reset ht
      exact hmode
  case cause =>
    rintro (⟨mode, rfl⟩ | rfl)
    · obtain ⟨-, hcause, -⟩ := lifecycleKept_start (slots_pos_of_wellFormed hc) ht
      exact hcause
    · obtain ⟨-, -, hcause, -⟩ := lifecycleKept_stop ht
      exact hcause
  case stop =>
    rintro rfl
    obtain ⟨-, -, -, hkept⟩ := lifecycleKept_stop ht
    exact hkept
  case ports =>
    rintro (⟨mode, rfl⟩ | rfl)
    · obtain ⟨-, -, hports⟩ := lifecycleKept_start (slots_pos_of_wellFormed hc) ht
      exact hports
    · obtain ⟨-, -, hports⟩ := lifecycleKept_reset ht
      exact hports

end Sys2Proof.Machine
end

section
/-! STATS and STATUS: the counter, the state word and the counts they return (43 R186, R187; 30 R97, R98). -/

namespace Sys2Proof.Machine

/-! ### STATS -/

theorem counter_eq (s : State) (sel : BitVec 2) :
    s.counter sel = if sel = 0 then s.cntIrq else if sel = 1 then s.cntSent else if sel = 2 then s.cntMaxRt else s.cntRx := by
  have hsel : sel = 0 ∨ sel = 1 ∨ sel = 2 ∨ sel = 3 := by
    revert sel
    decide
  rcases hsel with rfl | rfl | rfl | rfl <;> rfl

/-- Settles O28: the selector names one of the four counters, and the response is all that the step writes. -/
theorem statsReadsCounter : Obligations.StatsReadsCounter := by
  intro s sel
  refine ⟨word_setWidth (by decide) 10 sel, ?_⟩
  rw [← counter_eq]
  rfl

/-! ### The state word (30 R98) -/

theorem toNat_append_eq_add {m n : Nat} (x : BitVec m) (y : BitVec n) : (x ++ y).toNat = x.toNat * 2 ^ n + y.toNat := by
  rw [BitVec.toNat_append, ← Nat.shiftLeft_add_eq_or_of_lt y.isLt, Nat.shiftLeft_eq]

theorem evt_code_toNat (e : Evt) :
    e.code.toNat = e.stop.toNat + 2 * e.irq.toNat + 4 * e.txp.toNat + 8 * e.fetch.toNat := by
  simp only [Evt.code, toNat_append_eq_add, BitVec.toNat_ofBool]
  omega

theorem stateWord_toNat (s : State) :
    s.stateWord.toNat =
      s.state.code.toNat + 8 * s.mode.code.toNat + 32 * s.role.code.toNat + 64 * (causeCode s.errCause).toNat
        + 512 * s.evt.code.toNat + 8192 * s.reuse.toNat + 16384 * s.rxdef.toNat := by
  simp only [State.stateWord, toNat_append_eq_add, BitVec.toNat_ofBool]
  simp
  omega

/-! ### STATUS -/

theorem toRval_toNat_of_lt {n : Nat} (hn : n < 2 ^ 32) : (toRval n).toNat = n := by
  rw [toRval_of_lt hn, BitVec.toNat_ofNat, Nat.mod_eq_of_lt hn]

theorem exec_status_of_value {s : State} {sel : BitVec 3} {v : Word} (hv : s.statusValue sel = some v) :
    exec (.status sel) s = .next (s.respond .ok v []) := by
  simp [exec, execStatus, hv]

/-- Settles O29: the state word is the sum of its fields at their positions, and a count that fits is its own value. -/
theorem statusReadsControlState : Obligations.StatusReadsControlState := by
  intro s sel _ hsel hfree htxq hrxq hpos hdrain
  have hcases : sel = 0 ∨ sel = 1 ∨ sel = 2 ∨ sel = 3 ∨ sel = 4 ∨ sel = 5 := by
    revert sel
    decide
  rcases hcases with rfl | rfl | rfl | rfl | rfl | rfl
  · refine ⟨s.stateWord, exec_status_of_value rfl, ?_⟩
    rw [stateWord_toNat, evt_code_toNat]
    change _ = _ + 8192 * s.reuse.toNat + 16384 * s.rxdef.toNat
    congr 6
    · cases s.state <;> rfl
    · cases s.mode <;> rfl
    · cases s.role <;> rfl
    · rcases s.errCause with _ | c
      · rfl
      · cases c <;> rfl
  · exact ⟨_, exec_status_of_value rfl, toRval_toNat_of_lt hfree⟩
  · exact ⟨_, exec_status_of_value rfl, toRval_toNat_of_lt htxq⟩
  · exact ⟨_, exec_status_of_value rfl, toRval_toNat_of_lt hrxq⟩
  · exact ⟨_, exec_status_of_value rfl, toRval_toNat_of_lt hpos⟩
  · exact ⟨_, exec_status_of_value rfl, toRval_toNat_of_lt hdrain⟩

end Sys2Proof.Machine
end

section
/-! The steps of the event loop as equations (44 R210 to R222): which step is taken, the role it starts in, one iteration, the
handling of an interrupt, the retry policy and the two direction switches of ADHOC. -/

namespace Sys2Proof.Machine

section

variable {s : State}

/-! ### The step that is taken (44 R210) -/

theorem elStep_of_ready (hr : s.ready = true) : elStep s = if s.evt.pending then (elIter s).endLoop else .next s := by
  rcases ready_eq_true_iff.1 hr with h | h <;> cases hp : s.evt.pending <;> simp [elStep, State.elEnabled, h, hp]

theorem elStep_of_starting (hs : s.state = .starting) : elStep s = (elStart s).endLoop := by
  simp only [elStep, State.elEnabled, hs]

theorem elStep_of_stop (hs : s.state = .stopping) : elStep s = (elStop s).endLoop := by
  simp only [elStep, State.elEnabled, hs]

theorem elStep_of_idle (hs : s.state = .stopped ∨ s.state = .error) : elStep s = .next s := by
  rcases hs with h | h <;> simp only [elStep, State.elEnabled, h]

/-! ### The radio's answers -/

theorem drawn_traced (s : State) (x : RadioTxn) : s.drawn.traced x = { s.drawn with rtrace := s.rtrace ++ [x] } := by
  simp [State.traced]

/-! ### The interrupt (44 R214 to R216) -/

/-- The state after the poll for an interrupt: a packet sent and a retry exhaustion are counted, and a packet sent clears `REUSE`. -/
def State.polled (s : State) : State :=
  { s.drawn with
    rtrace := s.rtrace ++ [.poll true s.answer.status]
    cntSent := s.cntSent + (if s.answer.status.dataSent then 1 else 0), reuse := s.reuse && !s.answer.status.dataSent
    cntMaxRt := s.cntMaxRt + (if s.answer.status.maxRetriesExceeded then 1 else 0) }

/-- The poll and, where it reports an exhaustion while transmitting, the retry policy; with the answer `fellBack`. -/
def State.retried (s : State) : Bool × State :=
  if s.answer.status.maxRetriesExceeded = true ∧ s.state = .transmitting then retry s.polled else (false, s.polled)

theorem retry_eq (s : State) :
    retry s =
      if s.reuse = false then (false, { s with rtrace := s.rtrace ++ [.resend], reuse := true })
      else if s.mode ≠ .adhoc then (false, { s with reuse := false })
      else
        (true,
          { s with
            reuse := false, rtrace := s.rtrace ++ [.beginListening], role := .prx, state := .receiving
            evt := { s.evt with txp := s.evt.txp || decide (s.txq ≠ []) } }) := by
  unfold retry dropPacket
  cases hreuse : s.reuse
  · rfl
  by_cases hmode : s.mode = .adhoc
  · cases hq : s.txq <;> simp [hmode, hq, State.raiseTxp, radioBeginListening, State.traced, State.withReuse]
  · simp [hmode, State.withReuse]

theorem handleIrq_eq (s : State) :
    handleIrq s =
      if s.answer.status.dataReceived = true then
        (rxFill true s.retried.2.countRx).bind fun _ w => .ok s.retried.1 w
      else .ok s.retried.1 s.retried.2 := by
  unfold handleIrq
  simp only
  generalize hv : (if (radioPoll true s).1.dataSent then _ else _ : State) = v
  have hstate : v.state = s.state := by
    subst hv
    split <;> simp [radioPoll]
  have hpolled : s.polled = if s.answer.status.maxRetriesExceeded then v.countMaxRt else v := by
    subst hv
    cases hsent : s.answer.status.dataSent <;> split <;>
      simp_all [State.polled, radioPoll, drawn_traced, State.countSent, State.withReuse, State.countMaxRt]
  rw [State.retried, hpolled, ← hstate]
  cases hmax : s.answer.status.maxRetriesExceeded <;> simp [radioPoll, hmax]

end

/-! ### The statements -/

/-- Settles O34, by the configured mode. -/
theorem elStartTakesRole : Obligations.ElStartTakesRole := by
  intro s hs
  rw [takeEvent, elStep_of_starting hs, elStart]
  cases hm : s.mode <;> simp [Res.endLoop, radioBecomeTx, radioBeginListening, State.traced, hm]

/-- Settles O35: in STOPPED and ERROR no step is enabled, and in a Ready state only with a signal pending. -/
theorem loopWaitsForSignal : Obligations.LoopWaitsForSignal := by
  rintro s (hs | hs | ⟨hr, hirq, htxp, hfetch⟩)
  · exact elStep_of_idle (.inl hs)
  · exact elStep_of_idle (.inr hs)
  · rw [takeEvent, elStep_of_ready hr]
    simp [Evt.pending, hirq, htxp, hfetch]

/-- Settles O37: the iteration is the sequence of its parts, and each part is read off its rule. -/
theorem retryAndDirectionSwitches : Obligations.RetryAndDirectionSwitches := by
  intro s
  refine ⟨fun hr hp => ?iteration, fun a u v fellBack ha hu hv => ?interrupt, retry_eq s, rfl, ?turn⟩
  case iteration =>
    rw [takeEvent, elStep_of_ready hr, if_pos hp]
    simp only [elIter, iterIrq, iterFetch, iterSwitch, iterTurnaround, Bool.and_eq_true, radioPoll, drawn_traced]
    rfl
  case interrupt =>
    subst ha
    have hretried : (fellBack, v) = s.retried := by
      subst hu
      exact hv
    rw [handleIrq_eq, ← hretried]
    rfl
  case turn =>
    cases hflag : s.answer.flag <;>
      simp [turnaround, radioTxEmpty, hflag, radioBeginListening, State.traced, State.withReuse]

end Sys2Proof.Machine
end

section
/-! RX_FILL (44 R217): where it stops or defers, and one pass that loads a packet. -/

namespace Sys2Proof.Machine

section

variable {s u : State} {h n fuel : Nat}

/-! ### Where it returns -/

theorem rxFill_of_no_data (s : State) : rxFill false s = .ok () { s with rxdef := false } := rfl

theorem rxFill_of_no_room (hroom : s.rxq.length = s.cfg.qrx ∨ s.freeCount = 0) :
    rxFill true s = .ok () { s with rxdef := true } := by
  have hif : (s.rxFull || s.freeCount == 0) = true := by simpa [State.rxFull] using hroom
  rw [rxFill, rxFillLoop, if_neg (by decide), if_pos hif]
  rfl

theorem rxFill_of_bad_length (hq : s.rxq.length ≠ s.cfg.qrx) (h0 : s.freeCount ≠ 0) (hl : rxLength s = (n, u))
    (hn : n = 0 ∨ 32 < n) : rxFill true s = .ok () { u with rxdef := false } := by
  have hif : ¬ (s.rxFull || s.freeCount == 0) = true := by simpa [State.rxFull] using ⟨hq, h0⟩
  rw [rxFill, rxFillLoop, if_neg (by decide), if_neg hif, hl]
  exact if_pos hn

theorem rxLength_of_dynpd (hd : s.cfg.dynpd = true) :
    rxLength s = (s.answer.length.toNat, { s.drawn with rtrace := s.rtrace ++ [.rxLen s.answer.length] }) := by
  rw [rxLength, if_pos hd, radioRxLen, drawn_traced]

theorem rxLength_of_fixed (hd : s.cfg.dynpd = false) : rxLength s = (s.cfg.payloadSize, s) := by
  simp [rxLength, hd]

/-! ### One pass -/

/-- The state after one pass of RX_FILL whose length answer left `u`, before its poll: `n` bytes received into slot `h`. -/
def State.received (u : State) (h n : Nat) : State :=
  State.loaded { u.drawn with rtrace := u.rtrace ++ [.rxPayload n (u.answer.payload.toList.take n)] } h
    (u.answer.payload.toList.take n)

theorem drawn_withOwner (s : State) (h : Nat) (tag : Owner) : (s.withOwner h tag).drawn = s.drawn.withOwner h tag := by
  unfold State.drawn
  cases hans : s.answers <;> simp [State.withOwner, hans]

theorem length_take_payload (a : RadioAnswer) (hn : n ≤ 32) : (a.payload.toList.take n).length = n := by
  simpa using hn

theorem rxLoad_of_loading (hh : h < u.cfg.slots) (hq : u.rxq.length ≠ u.cfg.qrx) (hn : n ≤ 32) :
    rxLoad h n (u.withOwner h .loading) = .ok () (u.received h n) := by
  rw [rxLoad_ok (s := u.withOwner h .loading) hh hq, drawn_withOwner]
  simp [State.received, State.loaded, State.answer, length_take_payload _ hn]

theorem cargo_of_rxLength (hl : rxLength s = (n, u)) : u.cargo = s.cargo := by
  have hcargo := (noBytes_rxLength s).cargo
  rwa [hl] at hcargo

theorem slots_of_cargo (h : u.cargo = s.cargo) :
    u.cfg = s.cfg ∧ u.owner = s.owner ∧ u.len = s.len ∧ u.data = s.data ∧ u.rxq = s.rxq :=
  ⟨(congrArg State.cfg h :), (congrArg State.owner h :), (congrArg State.len h :), (congrArg State.data h :),
    (congrArg State.rxq h :)⟩

theorem rxFillLoop_of_load (hq : s.rxq.length ≠ s.cfg.qrx) (hl : rxLength s = (n, u)) (hpos : 1 ≤ n) (hn : n ≤ 32)
    (hfree : s.firstFree = some h) (hh : h < s.cfg.slots) :
    rxFillLoop (fuel + 1) true s =
      rxFillLoop fuel (radioPoll false (u.received h n)).1.dataReceived (radioPoll false (u.received h n)).2 := by
  have hcargo := cargo_of_rxLength hl
  have hfree' : u.firstFree = some h := (congrArg State.firstFree hcargo :).trans hfree
  obtain ⟨hcfg, -, -, -, hrxq⟩ := slots_of_cargo hcargo
  have hq' : u.rxq.length ≠ u.cfg.qrx := by rwa [hrxq, hcfg]
  have hh' : h < u.cfg.slots := by rwa [hcfg]
  have hroom : ¬ (s.rxFull || s.freeCount == 0) = true := by
    have h0 : s.freeCount ≠ 0 := fun h0 => by simp [firstFree_none_iff.2 h0] at hfree
    simpa [State.rxFull] using ⟨hq, h0⟩
  have halloc : poolTryAlloc .loading u = .ok (some h) (u.withOwner h .loading) := by
    rcases poolTryAlloc_cases .loading u with ⟨h0, -⟩ | ⟨k, hk, ha⟩
    · simp [firstFree_none_iff.2 h0] at hfree'
    · rwa [Option.some.inj (hk.symm.trans hfree')] at ha
  rw [rxFillLoop, if_neg (by decide), if_neg hroom, hl]
  simp only
  rw [if_neg (by unfold Config.pkt; omega), halloc, bind_ok]
  simp only
  rw [rxLoad_of_loading hh' hq' hn, bind_ok]

/-- The slot loaded was free, so one pass more is left than there are free slots. -/
theorem freeCount_received (hcargo : u.cargo = s.cargo) (hfree : s.firstFree = some h) :
    s.freeCount = (u.received h n).freeCount + 1 := by
  obtain ⟨hlt, howner⟩ := List.getElem?_eq_some_iff.1 (owner_of_firstFree hfree)
  have hset : (u.received h n).owner = s.owner.set h .rxq := by
    obtain ⟨-, ho, -⟩ := slots_of_cargo hcargo
    simp [State.received, State.loaded, ho]
  have hpos : 0 < s.owner.count .free := List.count_pos_iff.2 (howner ▸ List.getElem_mem hlt)
  have hcount : (s.owner.set h .rxq).count .free = s.owner.count .free - 1 := by
    simp [List.count_set hlt, howner]
  rw [State.freeCount, State.freeCount, hset, hcount]
  omega

theorem rxFill_of_load (hq : s.rxq.length ≠ s.cfg.qrx) (hl : rxLength s = (n, u)) (hpos : 1 ≤ n) (hn : n ≤ 32)
    (hfree : s.firstFree = some h) (hh : h < s.cfg.slots) :
    rxFill true s = rxFill (radioPoll false (u.received h n)).1.dataReceived (radioPoll false (u.received h n)).2 := by
  have hpoll : (radioPoll false (u.received h n)).2.freeCount = (u.received h n).freeCount := by
    simp [State.freeCount, radioPoll]
  rw [rxFill, rxFill, rxFillLoop_of_load hq hl hpos hn hfree hh, hpoll, freeCount_received (cargo_of_rxLength hl) hfree]

/-- With room in the receive queue a consistent state has a free slot (40 R118). -/
theorem Consistent.exists_firstFree (hs : Consistent s) (hq : s.rxq.length < s.cfg.qrx) : ∃ h, s.firstFree = some h := by
  refine (hs.tags.tagged hs.shaped.owners).exists_firstFree ?_
  obtain ⟨hslots, -⟩ := (Config.wellFormed_iff s.cfg).1 hs.shaped.config
  have htx := hs.ranges.txq
  have hfill : s.fill.toList.length ≤ 1 := by cases s.fill <;> simp
  have hdrain : s.drain.toList.length ≤ 1 := by cases s.drain <;> simp
  rw [hs.shaped.owners]
  omega

end

/-! ### The statements -/

/-- Settles O38, by the return points of the first pass. -/
theorem rxFillStopsOrDefers : Obligations.RxFillStopsOrDefers := by
  intro s avail
  refine ⟨?none, ?full, ?asked, ?fixed⟩
  case none =>
    rintro rfl
    exact rxFill_of_no_data s
  case full =>
    rintro rfl hroom
    exact rxFill_of_no_room hroom
  case asked =>
    rintro rfl hq h0 hd hn
    exact rxFill_of_bad_length hq h0 (rxLength_of_dynpd hd) hn
  case fixed =>
    rintro rfl hq h0 hd hn
    refine ⟨Bool.eq_false_iff.2 fun hc => ?_, rxFill_of_bad_length hq h0 (rxLength_of_fixed hd) hn⟩
    obtain ⟨-, -, -, -, -, hpos, hmax, -⟩ := (Config.wellFormed_iff s.cfg).1 hc
    omega

/-- Settles O39: the pass loads the lowest free slot, and leaves one free slot fewer and so one pass fewer to go. -/
theorem rxFillLoadsPacket : Obligations.RxFillLoadsPacket := by
  intro s u n bytes hs hq hlength hpos hn hbytes
  have hl : rxLength s = (n, u) := by
    rcases hlength with ⟨hd, rfl, rfl⟩ | ⟨hd, rfl, rfl⟩
    · exact rxLength_of_dynpd hd
    · exact rxLength_of_fixed hd
  subst hbytes
  have hlen := length_take_payload (n := n) u.answer hn
  obtain ⟨-, howner, hlens, hdata, hrxq⟩ := slots_of_cargo (cargo_of_rxLength hl)
  obtain ⟨h, hfree⟩ := hs.exists_firstFree hq
  obtain ⟨hlt, hofree, hlow⟩ := firstFree_spec hfree
  have hh : h < s.cfg.slots := hs.shaped.owners ▸ hlt
  have hh' : h < s.len.length := hs.shaped.lens ▸ hh
  have hset : (u.received h n).len = s.len.set h n := by simp [State.received, State.loaded, hlen, hlens]
  have hset' : (u.received h n).owner = (s.withOwner h .rxq).owner := by simp [State.received, State.loaded, howner]
  have hfill := rxFill_of_load (Nat.ne_of_lt hq) hl hpos hn hfree hh
  simp only [radioPoll, drawn_traced] at hfill
  refine ⟨h, u.received h n, hofree, hlow, ?rxq, ?owner, ?len, hlen, ?packet, fun a => ?memory,
    fun k hk => ⟨?_, ?_⟩, ?rest, hfill, fun hnone => ?last⟩
  case rxq => simp [State.received, State.loaded, hrxq]
  case owner =>
    rw [State.ownerAt, hset']
    exact ownerAt_withOwner_same hlt
  case len => rw [lenAt_of_set hset hh', if_pos rfl]
  case packet => exact packet_loaded_same (by simpa [hlens] using hh')
  case memory =>
    have hwrite := Memory.read_writeAll u.data h 0 a (u.answer.payload.toList.take n)
    rw [hlen, hdata] at hwrite
    rw [← hwrite]
    simp [State.received, State.loaded, hdata]
  · rw [State.ownerAt, hset']
    exact ownerAt_withOwner_other hk
  · exact lenAt_set_other hset hk
  case rest => simp [State.received, State.loaded, howner, hlens, hdata, hrxq]
  case last =>
    rw [hfill, hnone]
    exact rxFill_of_no_data _

end Sys2Proof.Machine
end

section
/-! TX_DRAIN (44 R218): where it does nothing or stops, and one pass that hands the head of the queue to the radio. -/

namespace Sys2Proof.Machine

section

variable {s : State} {kind : TxKind} {h : Nat} {q : List Nat}

theorem txDrain_of_empty (hq : s.txq = []) : txDrain s = .ok () s := by
  unfold txDrain
  cases s.txKind with
  | none => rfl
  | some kind => simp [hq, txDrainLoop]

theorem txDrain_of_no_kind (hk : s.txKind = none) : txDrain s = .ok () s := by
  rw [txDrain, hk]

theorem txDrain_of_no_room (hk : s.txKind = some kind) (hq : s.txq ≠ []) (hfull : s.answer.flag = true) :
    txDrain s = .ok () { s.drawn with rtrace := s.rtrace ++ [.txFull true] } := by
  obtain ⟨h, q, hq⟩ := List.exists_cons_of_ne_nil hq
  rw [txDrain, hk]
  simp [hq, txDrainLoop, radioTxFull, hfull, drawn_traced]

/-- The state after the head of the transmit queue is taken off it, before its slot is freed. -/
def State.takenOff (s : State) (h : Nat) (q : List Nat) : State := { s with txq := q, owner := s.owner.set h .inflight }

/-- The state after the head of the transmit queue is handed to the radio and its slot freed. -/
def State.handedOff (s : State) (kind : TxKind) (h : Nat) (q : List Nat) : State :=
  { (handOff kind (s.packet h) (s.lenAt h) s).2 with txq := q, owner := s.owner.set h .free }

/-- The hand-off reads neither the queue nor the tags, and leaves both alone. -/
theorem handOff_takenOff (kind : TxKind) (d : List Byte) (n : Nat) (s : State) (h : Nat) (q : List Nat) :
    handOff kind d n (s.takenOff h q) = ((handOff kind d n s).1, (handOff kind d n s).2.takenOff h q) := by
  cases kind with
  | send =>
    cases hans : s.answers <;> simp [handOff, radioSend, State.answer, State.drawn, State.traced, State.takenOff, hans]
  | ack => rfl

theorem dequeue_tx_ok (hq : s.txq = h :: q) (hh : h < s.cfg.slots) : dequeue .tx .inflight s = .ok h (s.takenOff h q) :=
  dequeue_ok (q := .tx) hq hh

theorem readBytes_takenOff (hs : Shaped s) (hh : h < s.cfg.slots) :
    readBytes h 0 (s.lenAt h) (s.takenOff h q) = .ok (s.packet h) (s.takenOff h q) := by
  have hlen : s.lenAt h ≤ 32 := hs.lenAt_le h
  have hpacket : ((List.range (s.lenAt h)).map fun j => (s.takenOff h q).byteAt h (0 + j)) = s.packet h := by
    simp only [Nat.zero_add]
    rfl
  rw [readBytes_ok (s := s.takenOff h q) hh (by omega), hpacket]

theorem txOne_ok (hs : Shaped s) (hq : s.txq = h :: q) (hh : h < s.cfg.slots) :
    txOne kind s = .ok (handOff kind (s.packet h) (s.lenAt h) s).1 (s.handedOff kind h q) := by
  have hblock := block_handOff kind (s.packet h) (s.lenAt h) s
  have hcfg : (handOff kind (s.packet h) (s.lenAt h) s).2.cfg = s.cfg := (congrArg State.cfg hblock :)
  have howner : (handOff kind (s.packet h) (s.lenAt h) s).2.owner = s.owner := (congrArg State.owner hblock :)
  have hlen : h < s.owner.length := hs.owners ▸ hh
  have hfree : poolFree (some h) ((handOff kind (s.packet h) (s.lenAt h) s).2.takenOff h q) = .ok () (s.handedOff kind h q) := by
    rw [poolFree_ok (hcfg.symm ▸ hh)]
    · simp [State.takenOff, State.handedOff, State.withOwner, howner]
    · simp [State.takenOff, State.ownerAt, List.getD, howner, hlen]
  have hl : (s.takenOff h q).lenAt h = s.lenAt h := rfl
  rw [txOne, dequeue_tx_ok hq hh, bind_ok, hl, readBytes_takenOff hs hh, bind_ok]
  simp only [hl, handOff_takenOff, hfree, bind_ok]

@[simp] theorem packet_radioTxFull (s : State) : (radioTxFull s).2.packet = s.packet :=
  (congrArg State.packet (noBytes_radioTxFull s).cargo :)

@[simp] theorem lenAt_radioTxFull (s : State) : (radioTxFull s).2.lenAt = s.lenAt :=
  (congrArg State.lenAt (noBytes_radioTxFull s).cargo :)

/-- The poll for room leaves the registers that a hand-off reads alone. -/
theorem txOne_after_poll (hs : Shaped s) (hq : s.txq = h :: q) (hh : h < s.cfg.slots) :
    txOne kind (radioTxFull s).2 =
      .ok (handOff kind (s.packet h) (s.lenAt h) (radioTxFull s).2).1 ((radioTxFull s).2.handedOff kind h q) := by
  have hcargo := (noBytes_radioTxFull s).cargo
  have hcfg : (radioTxFull s).2.cfg = s.cfg := (congrArg State.cfg hcargo :)
  have hone := txOne_ok (kind := kind) (hs.of_cargo hcargo) ((congrArg State.txq hcargo :).trans hq) (hcfg ▸ hh)
  rwa [packet_radioTxFull, lenAt_radioTxFull] at hone

theorem txKind_handedOff (s : State) (kind : TxKind) (h : Nat) (q : List Nat) :
    ((radioTxFull s).2.handedOff kind h q).txKind = s.txKind := by
  cases kind <;> simp [State.txKind, State.handedOff, handOff, radioSend, radioAckPayload, radioTxFull]

/-- One pass of TX_DRAIN goes on where the packet is submitted. -/
theorem txDrain_of_room (hs : Shaped s) (hk : s.txKind = some kind) (hq : s.txq = h :: q) (hh : h < s.cfg.slots)
    (hroom : s.answer.flag = false) :
    txDrain s =
      if (handOff kind (s.packet h) (s.lenAt h) (radioTxFull s).2).1 then txDrain ((radioTxFull s).2.handedOff kind h q)
      else .ok () ((radioTxFull s).2.handedOff kind h q) := by
  have hne : ¬ s.txq.isEmpty = true := by simp [hq]
  have hflag : ¬ (radioTxFull s).1 = true := by simp [radioTxFull, hroom]
  rw [txDrain, hk, hq]
  simp only [List.length_cons, txDrainLoop]
  rw [if_neg hne, if_neg hflag, txOne_after_poll hs hq hh, bind_ok, txDrain, txKind_handedOff, hk]
  rfl

theorem drawn_of_traced (s : State) (x : RadioTxn) : (s.traced x).drawn = s.drawn.traced x := by
  cases hans : s.answers <;> simp [State.drawn, State.traced, hans]

/-- After a send TX_DRAIN goes on where the radio's second answer is that the packet is submitted. -/
theorem goesOn_send (d : List Byte) (n : Nat) (s : State) : (handOff .send d n (radioTxFull s).2).1 = s.drawn.answer.flag := rfl

theorem goesOn_ack (d : List Byte) (n : Nat) (s : State) : (handOff .ack d n s).1 = true := rfl

/-- A packet handed over by `sendPacket`: two answers are drawn (44 R218). -/
theorem handedOff_send (s : State) (hroom : s.answer.flag = false) :
    (radioTxFull s).2.handedOff .send h q =
      { s.drawn.drawn with
        txq := q, owner := s.owner.set h .free
        rtrace := s.rtrace ++ [.txFull false, .send (s.packet h) (s.lenAt h) true s.drawn.answer.flag] } := by
  rw [State.handedOff, packet_radioTxFull, lenAt_radioTxFull]
  simp only [handOff, radioSend, radioTxFull, drawn_of_traced, hroom]
  simp [State.traced, State.answer]

/-- A packet handed over by `writeAckPayload`: one answer is drawn (44 R218). -/
theorem handedOff_ack (s : State) (hroom : s.answer.flag = false) :
    (radioTxFull s).2.handedOff .ack h q =
      { s.drawn with
        txq := q, owner := s.owner.set h .free
        rtrace := s.rtrace ++ [.txFull false, .ackPayload s.cfg.ackPipe (s.packet h) (s.lenAt h)] } := by
  rw [State.handedOff, packet_radioTxFull, lenAt_radioTxFull]
  simp [handOff, radioAckPayload, radioTxFull, hroom, State.traced]

end

/-! ### The statement -/

/-- Settles O40, by whether the radio has room and by the kind of the hand-off. -/
theorem txDrainHandsOffHead : Obligations.TxDrainHandsOffHead := by
  intro s
  refine ⟨txDrain_of_empty, fun hrole hmode => txDrain_of_no_kind (by simp [State.txKind, hrole, hmode]), ?_⟩
  rintro u v h q hs hq rfl rfl
  have hh : h < s.cfg.slots := hs.tags.txqSlots h (by simp [hq])
  have hsend (hrole : s.role = .ptx) : s.txKind = some .send := by simp [State.txKind, hrole]
  have hack (hrole : s.role = .prx) (hmode : s.mode = .prxOnly) : s.txKind = some .ack := by simp [State.txKind, hrole, hmode]
  refine ⟨fun hkind hfull => ?full, fun hrole hroom hflag => ?refused, fun hrole hroom hflag => ?sent,
    fun hrole hmode hroom => ?ack⟩
  case full =>
    have hk : ∃ kind, s.txKind = some kind := by
      cases hrole : s.role with
      | ptx => exact ⟨_, hsend hrole⟩
      | prx => exact ⟨_, hack hrole (hkind.resolve_left (by simp [hrole]))⟩
    obtain ⟨kind, hk⟩ := hk
    exact txDrain_of_no_room hk (by simp [hq]) hfull
  case refused =>
    rw [txDrain_of_room hs.shaped (hsend hrole) hq hh hroom, goesOn_send, hflag, handedOff_send s hroom, hflag]
    rfl
  case sent =>
    rw [txDrain_of_room hs.shaped (hsend hrole) hq hh hroom, goesOn_send, hflag, if_pos rfl, handedOff_send s hroom, hflag]
  case ack =>
    rw [txDrain_of_room hs.shaped (hack hrole hmode) hq hh hroom, goesOn_ack, if_pos rfl, handedOff_ack s hroom]

end Sys2Proof.Machine
end

section
/-! What the event loop leaves alone, where it ends normally and where it faults (spec 44): the registers it does not write, and
outside ADHOC the role and the kind of every hand-off. -/

namespace Sys2Proof.Machine

/-! ### Actions -/

/-- The action ends with `J`, normally or by a fatal fault. -/
def Res.Reaches {α : Type} (J : State → Prop) : Res α → Prop
  | .ok _ t | .fatal _ t => J t
  | .stop _ => True

@[simp] theorem reaches_ok {α : Type} {J : State → Prop} {a : α} {t : State} : (Res.ok a t).Reaches J ↔ J t := Iff.rfl

theorem Res.Reaches.bind {α β : Type} {J : State → Prop} {r : Res α} {k : α → State → Res β} (hr : r.Reaches J)
    (hk : ∀ a t, J t → (k a t).Reaches J) : (r.bind k).Reaches J := by
  cases r with
  | ok a t => exact hk a t hr
  | fatal c t => exact hr
  | stop f => trivial

theorem Res.Reaches.mono {α : Type} {J K : State → Prop} {r : Res α} (hr : r.Reaches J) (h : ∀ t, J t → K t) : r.Reaches K := by
  cases r with
  | ok a t => exact h t hr
  | fatal c t => exact h t hr
  | stop f => trivial

theorem Res.reaches_of_cases {α : Type} {J : State → Prop} {r : Res α} (hok : ∀ a t, r = .ok a t → J t)
    (hfatal : ∀ c t, r = .fatal c t → J t) : r.Reaches J := by
  cases r with
  | ok a t => exact hok a t rfl
  | fatal c t => exact hfatal c t rfl
  | stop f => trivial

/-- A step of the loop ends where its action does, or by Error entry from there. -/
theorem Res.Reaches.endLoop {J : State → Prop} {r : Res Unit} {t : State} (hr : r.Reaches J) (ht : r.endLoop = .next t) :
    ∃ u, J u ∧ (t = u ∨ ∃ c, t = enterError c none u) := by
  rcases endLoop_cases ht with ⟨u, rfl⟩ | ⟨c, s, rfl, rfl⟩
  · exact ⟨t, hr, .inl rfl⟩
  · exact ⟨s, hr, .inr ⟨c, rfl⟩⟩

/-! ### The frames -/

/-- A packet is sent only by a transmitter, and an acknowledgement payload handed over only by a receiver (44 R218). -/
def RadioTxn.Fits (r : Role) : RadioTxn → Prop
  | .send _ _ _ _ => r = .ptx
  | .ackPayload _ _ _ => r = .prx
  | .beginListening | .becomeTx | .resend | .poll _ _ | .rxLen _ | .rxPayload _ _ | .txEmpty _ | .txFull _ => True

/-- The role in which packets are handed over so. -/
def TxKind.role : TxKind → Role
  | .send => .ptx
  | .ack => .prx

theorem role_of_txKind {s : State} {kind : TxKind} (hk : s.txKind = some kind) : s.role = kind.role := by
  unfold State.txKind at hk
  cases hrole : s.role with
  | ptx =>
    simp only [hrole, Option.some.injEq] at hk
    exact hk ▸ rfl
  | prx =>
    simp only [hrole, Option.ite_none_right_eq_some, Option.some.injEq] at hk
    exact hk.2 ▸ rfl

/-- The state with every register cleared that a move of a packet, `RXDEF` or a radio transaction writes. -/
def State.steady (s : State) : State :=
  { s with rxdef := false, owner := [], len := [], data := [], txq := [], rxq := [], rtrace := [], answers := [], draws := 0 }

/-- The state with every register cleared that the event loop writes once the signals are consumed and the flags counted. -/
def State.offLoop (s : State) : State := { s.steady with state := .stopped, role := .prx, reuse := false }

/-- `MODE` is kept, the trace only grows, and outside ADHOC `STATE` and `ROLE` are kept and every hand-off fits the role. -/
structure RoleFrame (s t : State) : Prop where
  mode : t.mode = s.mode
  control : s.mode ≠ .adhoc → t.state = s.state ∧ t.role = s.role
  trace : ∃ new, t.rtrace = s.rtrace ++ new ∧ (s.mode ≠ .adhoc → ∀ x ∈ new, x.Fits s.role)

/-- What the event loop leaves alone once the signals are consumed and the flags counted. -/
structure LoopFrame (s t : State) : Prop extends RoleFrame s t where
  rest : t.offLoop = s.offLoop
  reuse : t.reuse = s.reuse ∨ s.mode = .adhoc ∧ t.reuse = false

theorem RoleFrame.trans {s t u : State} (h : RoleFrame s t) (hu : RoleFrame t u) : RoleFrame s u := by
  obtain ⟨new, htrace, hnew⟩ := h.trace
  obtain ⟨new', htrace', hnew'⟩ := hu.trace
  refine ⟨hu.mode.trans h.mode, fun hm => ?_, new ++ new', by rw [htrace', htrace, List.append_assoc], fun hm x hx => ?_⟩
  · obtain ⟨hstate, hrole⟩ := h.control hm
    obtain ⟨hstate', hrole'⟩ := hu.control (h.mode ▸ hm)
    exact ⟨hstate'.trans hstate, hrole'.trans hrole⟩
  · rcases List.mem_append.1 hx with hx | hx
    · exact hnew hm x hx
    · exact (h.control hm).2 ▸ hnew' (h.mode ▸ hm) x hx

theorem roleFrame_refl (s : State) : RoleFrame s s := ⟨rfl, fun _ => ⟨rfl, rfl⟩, [], by simp⟩

theorem loopFrame_refl (s : State) : LoopFrame s s := ⟨roleFrame_refl s, rfl, .inl rfl⟩

section

variable {s₀ s t : State}

theorem RoleFrame.grown {new : List RadioTxn} (hs : RoleFrame s₀ s) (hmode : t.mode = s.mode) (hstate : t.state = s.state)
    (hrole : t.role = s.role) (htrace : t.rtrace = s.rtrace ++ new) (hnew : s₀.mode ≠ .adhoc → ∀ x ∈ new, x.Fits s₀.role) :
    RoleFrame s₀ t := by
  obtain ⟨old, hold, hfits⟩ := hs.trace
  refine ⟨hmode.trans hs.mode, fun hm => hstate ▸ hrole ▸ hs.control hm, old ++ new,
    by rw [htrace, hold, List.append_assoc], fun hm x hx => ?_⟩
  exact (List.mem_append.1 hx).elim (hfits hm x) (hnew hm x)

/-- A turn of ADHOC. -/
theorem RoleFrame.turned {new : List RadioTxn} (hs : RoleFrame s₀ s) (hadhoc : s.mode = .adhoc) (hmode : t.mode = s.mode)
    (htrace : t.rtrace = s.rtrace ++ new) : RoleFrame s₀ t := by
  obtain ⟨old, hold, -⟩ := hs.trace
  have hno : ¬ s₀.mode ≠ .adhoc := not_not.2 (hs.mode ▸ hadhoc)
  exact ⟨hmode.trans hs.mode, fun hm => absurd hm hno, old ++ new, by rw [htrace, hold, List.append_assoc],
    fun hm => absurd hm hno⟩

theorem LoopFrame.grown {new : List RadioTxn} (hs : LoopFrame s₀ s) (h : t.steady = s.steady) (htrace : t.rtrace = s.rtrace ++ new)
    (hnew : s₀.mode ≠ .adhoc → ∀ x ∈ new, x.Fits s₀.role) : LoopFrame s₀ t where
  toRoleFrame := hs.toRoleFrame.grown (congrArg State.mode h :) (congrArg State.state h :) (congrArg State.role h :) htrace hnew
  rest := (congrArg State.offLoop h :).trans hs.rest
  reuse := by
    have hreuse : t.reuse = s.reuse := (congrArg State.reuse h :)
    exact hreuse ▸ hs.reuse

theorem LoopFrame.traced {x : RadioTxn} (hs : LoopFrame s₀ s) (h : t.steady = s.steady) (htrace : t.rtrace = s.rtrace ++ [x])
    (hx : s₀.mode ≠ .adhoc → x.Fits s₀.role) : LoopFrame s₀ t :=
  hs.grown h htrace (by simpa using hx)

theorem LoopFrame.still (hs : LoopFrame s₀ s) (h : t.steady = s.steady) (htrace : t.rtrace = s.rtrace) : LoopFrame s₀ t :=
  hs.grown (new := []) h (by simpa using htrace) nofun

theorem LoopFrame.turned {new : List RadioTxn} (hs : LoopFrame s₀ s) (hadhoc : s.mode = .adhoc) (h : t.offLoop = s.offLoop)
    (htrace : t.rtrace = s.rtrace ++ new) (hreuse : t.reuse = false) : LoopFrame s₀ t where
  toRoleFrame := hs.toRoleFrame.turned hadhoc (congrArg State.mode h :) htrace
  rest := h.trans hs.rest
  reuse := .inr ⟨hs.mode ▸ hadhoc, hreuse⟩

@[simp] theorem steady_drawn (s : State) : s.drawn.steady = s.steady := by simp [State.steady]

/-- A radio transaction that hands nothing over. -/
theorem LoopFrame.asked {x : RadioTxn} (hs : LoopFrame s₀ s) (hx : ∀ r, x.Fits r) : LoopFrame s₀ (s.drawn.traced x) :=
  hs.traced (steady_drawn s) (by simp) fun _ => hx _

end

/-! ### The operations on slots, memory, pool and queues -/

section

variable {s₀ s : State} (hs : LoopFrame s₀ s)

include hs

theorem loopFrame_writeBytes (h i : Nat) (bs : List Byte) : (writeBytes h i bs s).Reaches (LoopFrame s₀) :=
  Res.reaches_of_cases (fun _ _ hr => by rw [writeBytes_cases hr]; exact hs.still rfl rfl)
    fun _ _ hr => absurd hr writeBytes_not_fatal

theorem loopFrame_readBytes (h i n : Nat) : (readBytes h i n s).Reaches (LoopFrame s₀) :=
  Res.reaches_of_cases (fun _ _ hr => by obtain ⟨rfl, -⟩ := readBytes_cases hr; exact hs)
    fun _ _ hr => absurd hr readBytes_not_fatal

theorem loopFrame_setLen (h n : Nat) : (setLen h n s).Reaches (LoopFrame s₀) :=
  Res.reaches_of_cases (fun _ _ hr => by obtain ⟨-, rfl⟩ := setLen_cases hr; exact hs.still rfl rfl)
    fun _ _ hr => absurd hr setLen_not_fatal

theorem loopFrame_enqueue (q : Queue) (h : Nat) (tag : Owner) : (enqueue q h tag s).Reaches (LoopFrame s₀) := by
  refine Res.reaches_of_cases (fun _ _ hr => ?_) fun _ _ hr => ?_
  · obtain ⟨-, -, rfl⟩ := enqueue_cases hr
    cases q <;> exact hs.still rfl rfl
  · obtain ⟨-, -, rfl⟩ := enqueue_fatal hr
    exact hs

theorem loopFrame_dequeue (q : Queue) (tag : Owner) : (dequeue q tag s).Reaches (LoopFrame s₀) := by
  refine Res.reaches_of_cases (fun _ _ hr => ?_) fun _ _ hr => ?_
  · obtain ⟨_, -, -, rfl⟩ := dequeue_cases hr
    cases q <;> exact hs.still rfl rfl
  · obtain ⟨-, -, rfl⟩ := dequeue_fatal hr
    exact hs

theorem loopFrame_poolTryAlloc (tag : Owner) : (poolTryAlloc tag s).Reaches (LoopFrame s₀) := by
  rcases poolTryAlloc_cases tag s with ⟨-, ha⟩ | ⟨h, -, ha⟩ <;> rw [ha]
  · exact hs
  · exact hs.still rfl rfl

theorem loopFrame_poolFree (handle : Option Nat) : (poolFree handle s).Reaches (LoopFrame s₀) := by
  rcases poolFree_cases handle s with ⟨_, -, -, -, hf⟩ | ⟨-, hf⟩ | ⟨_, -, -, -, hf⟩ <;> rw [hf]
  · exact hs.still rfl rfl
  · exact hs
  · exact hs

/-! ### RX_FILL and TX_DRAIN (44 R217, R218) -/

theorem loopFrame_radioPoll (b : Bool) : LoopFrame s₀ (radioPoll b s).2 := hs.asked fun _ => trivial

theorem loopFrame_rxLength : LoopFrame s₀ (rxLength s).2 := by
  unfold rxLength
  split
  · exact hs.asked fun _ => trivial
  · exact hs

theorem loopFrame_rxLoad (h n : Nat) : (rxLoad h n s).Reaches (LoopFrame s₀) := by
  have hr : LoopFrame s₀ (radioRxPayload n s).2 := hs.asked fun _ => trivial
  exact (loopFrame_writeBytes hr _ _ _).bind fun _ _ h1 => (loopFrame_setLen h1 _ _).bind fun _ _ h2 => loopFrame_enqueue h2 _ _ _

theorem loopFrame_rxFillLoop (fuel : Nat) (avail : Bool) : (rxFillLoop fuel avail s).Reaches (LoopFrame s₀) := by
  induction fuel generalizing avail s with
  | zero => exact hs
  | succ fuel ih =>
    have hl := loopFrame_rxLength hs
    unfold rxFillLoop
    split
    · exact hs.still rfl rfl
    split
    · exact hs.still rfl rfl
    simp only
    split
    · exact hl.still rfl rfl
    refine (loopFrame_poolTryAlloc hl _).bind fun slot t ht => ?_
    cases slot with
    | none => exact ht.still rfl rfl
    | some h => exact (loopFrame_rxLoad ht _ _).bind fun _ u hu => ih (loopFrame_radioPoll hu false) _

theorem loopFrame_handOff {kind : TxKind} (hk : s₀.mode ≠ .adhoc → s₀.role = kind.role) (d : List Byte) (n : Nat) :
    LoopFrame s₀ (handOff kind d n s).2 := by
  cases kind with
  | send => exact hs.traced (x := .send d n true s.answer.flag) (steady_drawn s) (by simp [handOff, radioSend]) hk
  | ack => exact hs.traced (x := .ackPayload s.cfg.ackPipe d n) rfl rfl hk

theorem loopFrame_txOne {kind : TxKind} (hk : s₀.mode ≠ .adhoc → s₀.role = kind.role) : (txOne kind s).Reaches (LoopFrame s₀) :=
  (loopFrame_dequeue hs _ _).bind fun _ _ h1 => (loopFrame_readBytes h1 _ _ _).bind fun _ _ h2 =>
    (loopFrame_poolFree (loopFrame_handOff h2 hk _ _) _).bind fun _ _ h3 => h3

theorem loopFrame_txDrainLoop {kind : TxKind} (hk : s₀.mode ≠ .adhoc → s₀.role = kind.role) (fuel : Nat) :
    (txDrainLoop kind fuel s).Reaches (LoopFrame s₀) := by
  induction fuel generalizing s with
  | zero => exact hs
  | succ fuel ih =>
    have hf : LoopFrame s₀ (radioTxFull s).2 := hs.asked fun _ => trivial
    unfold txDrainLoop
    split
    · exact hs
    simp only
    split
    · exact hf
    refine (loopFrame_txOne hf hk).bind fun more t ht => ?_
    split
    · exact ih ht
    · exact ht

theorem loopFrame_txDrain : (txDrain s).Reaches (LoopFrame s₀) := by
  unfold txDrain
  cases hk : s.txKind with
  | none => exact hs
  | some kind => exact loopFrame_txDrainLoop hs (fun hm => (hs.control hm).2 ▸ role_of_txKind hk) _

/-! ### The parts of EL_ITER after the interrupt (44 R212) -/

theorem loopFrame_iterFetch (ev : Evt) : (iterFetch ev s).Reaches (LoopFrame s₀) := by
  unfold iterFetch
  split
  · exact loopFrame_rxFillLoop (loopFrame_radioPoll hs false) _ _
  · exact hs

theorem loopFrame_iterSwitch (fellBack : Bool) : LoopFrame s₀ (iterSwitch fellBack s) := by
  unfold iterSwitch
  split
  · rename_i hif
    obtain ⟨hadhoc, -⟩ := hif
    exact hs.turned (new := [.becomeTx]) hadhoc rfl rfl rfl
  · exact hs

theorem loopFrame_iterTurnaround : LoopFrame s₀ (iterTurnaround s) := by
  have he : LoopFrame s₀ (radioTxEmpty s).2 := hs.asked fun _ => trivial
  unfold iterTurnaround turnaround
  split
  · rename_i hif
    obtain ⟨hadhoc, -⟩ := hif
    have hmode : (radioTxEmpty s).2.mode = .adhoc := by simpa [radioTxEmpty] using hadhoc
    generalize radioTxEmpty s = e at he hmode
    simp only
    split
    · exact he.turned (new := [.beginListening]) hmode rfl rfl rfl
    · exact he
  · exact hs

end

end Sys2Proof.Machine
end

section
/-! One step of the event loop in a Ready state: the signals consumed and the flags counted (44 R212, R214 to R216; 10 R35), and
after that what the frames keep, where the step ends normally and where it faults. -/

namespace Sys2Proof.Machine

/-! ### The state before the first fill -/

/-- The state once an interrupt is polled, its flags counted and the retry policy run, before the fill (44 R214). -/
def State.handled (s : State) : State :=
  if s.answer.status.dataReceived = true then s.retried.2.countRx else s.retried.2

/-- The state of EL_ITER once the signals are consumed and a pending interrupt is handled, before the fill (44 R212). -/
def State.served (s : State) : State := if s.evt.irq = true then s.consumeEvents.handled else s.consumeEvents

/-- The pending interrupt reports a packet sent. -/
def State.irqSent (s : State) : Bool := s.evt.irq && s.answer.status.dataSent

/-- The pending interrupt reports a retry exhaustion. -/
def State.irqExhausted (s : State) : Bool := s.evt.irq && s.answer.status.maxRetriesExceeded

/-- The pending interrupt reports a received packet. -/
def State.irqReceived (s : State) : Bool := s.evt.irq && s.answer.status.dataReceived

/-- No resend is spent on the packet in flight, or it has just been sent (44 R214, R215). -/
def State.irqClean (s : State) : Bool := s.irqSent || !s.reuse

section

variable {s : State}

theorem offLoop_retry (s : State) :
    (retry s).2.offLoop =
      { s.offLoop with evt := { s.evt with txp := s.evt.txp || s.reuse && decide (s.mode = .adhoc ∧ s.txq ≠ []) } } := by
  rw [retry_eq]
  cases hreuse : s.reuse
  · simp [State.offLoop, State.steady]
  by_cases hmode : s.mode = .adhoc <;> simp [hmode, State.offLoop, State.steady]

/-- A resend is spent where none was, and given back where one was (44 R215, R216). -/
theorem reuse_retry (s : State) : (retry s).2.reuse = !s.reuse := by
  rw [retry_eq]
  cases hreuse : s.reuse
  · rfl
  by_cases hmode : s.mode = .adhoc <;> simp [hmode]

theorem offLoop_retried (s : State) :
    s.retried.2.offLoop =
      { s.offLoop with
        evt := { s.evt with
          txp := s.evt.txp || s.answer.status.maxRetriesExceeded && !(s.answer.status.dataSent || !s.reuse)
            && decide (s.state = .transmitting ∧ s.mode = .adhoc ∧ s.txq ≠ []) }
        cntSent := s.cntSent + (if s.answer.status.dataSent then 1 else 0)
        cntMaxRt := s.cntMaxRt + (if s.answer.status.maxRetriesExceeded then 1 else 0) } := by
  unfold State.retried
  split
  · rename_i hif
    obtain ⟨hmax, hstate⟩ := hif
    rw [offLoop_retry]
    simp [State.polled, State.offLoop, State.steady, hmax, hstate, Bool.and_comm]
  · rename_i hif
    have hno : (s.answer.status.maxRetriesExceeded && decide (s.state = .transmitting)) = false := by simpa using hif
    cases hmax : s.answer.status.maxRetriesExceeded <;> simp_all [State.polled, State.offLoop, State.steady]

theorem reuse_retried (s : State) :
    s.retried.2.reuse =
      if s.answer.status.maxRetriesExceeded = true ∧ s.state = .transmitting then !(s.reuse && !s.answer.status.dataSent)
      else s.reuse && !s.answer.status.dataSent := by
  unfold State.retried
  split
  · rw [reuse_retry]
    rfl
  · rfl

theorem offLoop_handled (s : State) :
    s.handled.offLoop =
      { s.retried.2.offLoop with
        cntRx := s.retried.2.offLoop.cntRx + (if s.answer.status.dataReceived then 1 else 0) } := by
  unfold State.handled
  cases s.answer.status.dataReceived <;> simp [State.offLoop, State.steady]

@[simp] theorem answer_consumeEvents (s : State) : s.consumeEvents.answer = s.answer := rfl

theorem offLoop_served (s : State) :
    s.served.offLoop =
      { s.offLoop with
        evt := { s.evt with
          irq := false, fetch := false
          txp := s.irqExhausted && !s.irqClean && decide (s.state = .transmitting ∧ s.mode = .adhoc ∧ s.txq ≠ []) }
        cntSent := s.cntSent + (if s.irqSent then 1 else 0)
        cntMaxRt := s.cntMaxRt + (if s.irqExhausted then 1 else 0)
        cntRx := s.cntRx + (if s.irqReceived then 1 else 0) } := by
  unfold State.served
  cases hirq : s.evt.irq
  · simp [State.irqExhausted, State.irqSent, State.irqReceived, hirq, State.offLoop, State.steady]
  · rw [if_pos rfl, offLoop_handled, offLoop_retried]
    simp only [State.irqExhausted, State.irqClean, State.irqSent, State.irqReceived, hirq, Bool.true_and]
    rfl

theorem reuse_served (s : State) :
    s.served.reuse = if s.irqExhausted = true ∧ s.state = .transmitting then s.irqClean else !s.irqClean := by
  have hretried := reuse_retried s.consumeEvents
  have hhandled (u : State) : u.handled.reuse = u.retried.2.reuse := by
    unfold State.handled
    split <;> rfl
  unfold State.served
  cases hirq : s.evt.irq
  · simp [State.irqExhausted, State.irqClean, State.irqSent, hirq]
  · rw [if_pos rfl, hhandled, hretried]
    simp [State.irqExhausted, State.irqClean, State.irqSent, hirq, Bool.or_comm]

theorem roleFrame_retry (s : State) : RoleFrame s (retry s).2 := by
  rw [retry_eq]
  split
  · exact (roleFrame_refl s).grown (new := [.resend]) rfl rfl rfl rfl (by simp [RadioTxn.Fits])
  split
  · exact { roleFrame_refl s with }
  · rename_i hmode
    exact (roleFrame_refl s).turned (new := [.beginListening]) (not_not.1 hmode) rfl rfl

theorem roleFrame_retried (s : State) : RoleFrame s s.retried.2 := by
  have hp : RoleFrame s s.polled :=
    (roleFrame_refl s).grown (new := [.poll true s.answer.status]) (drawn_mode s) (drawn_state s) (drawn_role s) rfl
      (by simp [RadioTxn.Fits])
  unfold State.retried
  split
  · exact hp.trans (roleFrame_retry s.polled)
  · exact hp

theorem roleFrame_handled (s : State) : RoleFrame s s.handled := by
  unfold State.handled
  split
  · exact { roleFrame_retried s with }
  · exact roleFrame_retried s

theorem roleFrame_served (s : State) : RoleFrame s s.served := by
  have hc : RoleFrame s s.consumeEvents := { roleFrame_refl s with }
  unfold State.served
  split
  · exact hc.trans (roleFrame_handled _)
  · exact hc

/-! ### The step -/

theorem loopFrame_handleIrq (s : State) : (handleIrq s).Reaches (LoopFrame s.handled) := by
  rw [handleIrq_eq, State.handled]
  split
  · exact (loopFrame_rxFillLoop (loopFrame_refl _) _ _).bind fun _ _ ht => ht
  · exact loopFrame_refl _

theorem loopFrame_elIter (s : State) : (elIter s).Reaches (LoopFrame s.served) := by
  have hirq : (iterIrq s.evt s.consumeEvents).Reaches (LoopFrame s.served) := by
    unfold iterIrq State.served
    split
    · exact loopFrame_handleIrq _
    · exact loopFrame_refl _
  exact hirq.bind fun _ _ h1 => (loopFrame_iterFetch h1 _).bind fun _ _ h2 =>
    (loopFrame_txDrain (loopFrame_iterSwitch h2 _)).bind fun _ _ h3 => loopFrame_iterTurnaround h3

/-- With no signal pending the step does nothing, and consuming the signals does nothing either. -/
theorem served_of_not_pending (hp : s.evt.pending = false) : s.served = s := by
  obtain ⟨⟨hirq, htxp⟩, hfetch⟩ : (s.evt.irq = false ∧ s.evt.txp = false) ∧ s.evt.fetch = false := by
    simpa [Evt.pending] using hp
  obtain ⟨_, _, _, _, _, ⟨stop, irq, txp, fetch⟩, _⟩ := s
  subst hirq htxp hfetch
  rfl

/-- A step of the loop in a Ready state ends within the frame of the state before the first fill, or by Error entry from there. -/
theorem elStep_ready_frame {t : State} (hr : s.ready = true) (ht : elStep s = .next t) :
    ∃ u, LoopFrame s.served u ∧ (t = u ∨ ∃ c, t = enterError c none u) := by
  rw [elStep_of_ready hr] at ht
  cases hp : s.evt.pending with
  | true =>
    rw [hp, if_pos rfl] at ht
    exact (loopFrame_elIter s).endLoop ht
  | false =>
    rw [hp] at ht
    cases ht
    exact ⟨s, (served_of_not_pending hp).symm ▸ loopFrame_refl s, .inl rfl⟩

end

end Sys2Proof.Machine
end

section
/-! What a Ready step of the event loop counts and keeps (O36), the fixed roles (O42) and the turnaround of ADHOC (O41). -/

namespace Sys2Proof.Machine

section

variable {s t u : State}

/-- A step that ends in `u`, or by Error entry from there, has the registers of `u` but for those of Error entry. -/
theorem eq_but_error (h : t = u ∨ ∃ c, t = enterError c none u) :
    { t with state := u.state, errCause := u.errCause, ports := u.ports } = u := by
  rcases h with rfl | ⟨c, rfl⟩ <;> rfl

theorem eq_or_error (h : t = u ∨ ∃ c, t = enterError c none u) : t = u ∨ t.state = .error :=
  h.imp_right fun ⟨c, hc⟩ => hc ▸ enterError_state c none u

/-- What the steps before the turnaround keep of the mode and of being Ready (44 R212). -/
theorem elIter_turnaround (s : State) :
    (elIter s).Ends True fun _ t => ∃ u, TurnsInAdhoc s u ∧ t = iterTurnaround u :=
  (turnsInAdhoc_iterIrq (s₀ := s) (s := s.consumeEvents) (turnsInAdhoc_of_eq rfl rfl) _).bind fun _ _ h1 =>
    (turnsInAdhoc_iterFetch h1 _).bind fun _ v h2 =>
      (turnsInAdhoc_txDrain (h2.trans (turnsInAdhoc_iterSwitch _ v))).bind fun _ u h3 => ⟨u, h3, rfl⟩

theorem TurnsInAdhoc.ready (h : TurnsInAdhoc s t) (hr : s.ready = true) : t.ready = true := by
  rcases h.state with hstate | ⟨-, hr'⟩
  · simpa only [State.ready, hstate] using hr
  · exact hr'

/-- The turnaround of ADHOC with nothing queued, by the radio's answer about its buffer (44 R222). -/
theorem iterTurnaround_of_empty (hmode : u.mode = .adhoc) (hr : u.ready = true) (hq : (iterTurnaround u).txq = []) :
    (iterTurnaround u).state = .receiving
      ∨ (iterTurnaround u).state = .transmitting ∧ ∃ pre, (iterTurnaround u).rtrace = pre ++ [.txEmpty false] := by
  unfold iterTurnaround at hq ⊢
  split
  · rename_i hif
    obtain ⟨-, hstate, -⟩ := hif
    cases hflag : u.answer.flag with
    | true => simp [turnaround, radioTxEmpty, hflag]
    | false => simp [turnaround, radioTxEmpty, hflag, hstate]
  · rename_i hif
    rw [if_neg hif] at hq
    rcases ready_eq_true_iff.1 hr with h | h
    · exact .inl h
    · exact absurd ⟨hmode, h, hq⟩ hif

end

/-! ### The statements -/

/-- Settles O36: the flags are counted before the first fill, and what follows keeps the counts within its frame. -/
theorem loopCountsHandledFlags : Obligations.LoopCountsHandledFlags := by
  intro s t sent exhausted received clean hr ht hsent hexhausted hreceived hclean
  obtain rfl : sent = s.irqSent := hsent
  obtain rfl : exhausted = s.irqExhausted := hexhausted
  obtain rfl : received = s.irqReceived := hreceived
  obtain rfl : clean = s.irqClean := hclean
  obtain ⟨u, hu, hend⟩ := elStep_ready_frame hr ht
  have hrest := hu.rest.trans (offLoop_served s)
  have ht := eq_but_error hend
  have hall := (congrArg State.offLoop ht).trans hrest
  refine ⟨(congrArg State.evt hall :), (congrArg State.cntIrq hall :), (congrArg State.cntSent hall :),
    (congrArg State.cntMaxRt hall :), (congrArg State.cntRx hall :), ?reuse, (congrArg State.mode hall :),
    (congrArg State.fill hall :), (congrArg State.fillPos hall :), (congrArg State.drain hall :),
    (congrArg State.drainPos hall :), (congrArg State.stopPolls hall :), (congrArg State.cfg hall :), ?ports⟩
  case reuse =>
    have hreuse : t.reuse = u.reuse := (congrArg State.reuse ht :)
    rw [hreuse, ← reuse_served, ← (roleFrame_served s).mode]
    exact hu.reuse
  case ports =>
    refine (eq_or_error hend).imp_left ?_
    rintro rfl
    exact ⟨(congrArg State.ports hrest :), (congrArg State.errCause hrest :)⟩

/-- Settles O42: outside ADHOC no part of the iteration commands a role. -/
theorem fixedRoleNeverOscillates : Obligations.FixedRoleNeverOscillates := by
  intro s t hr hmode ht
  obtain ⟨u, hu, hend⟩ := elStep_ready_frame hr ht
  have hframe : RoleFrame s u := (roleFrame_served s).trans hu.toRoleFrame
  obtain ⟨hstate, hrole⟩ := hframe.control hmode
  obtain ⟨new, htrace, hfits⟩ := hframe.trace
  have ht := eq_but_error hend
  refine ⟨(eq_or_error hend).imp_left fun h => (congrArg State.state h).trans hstate, (congrArg State.role ht :).trans hrole, new,
    (congrArg State.rtrace ht :).trans htrace, fun _ hptx p d n hx => ?_, fun _ hprx d n q a hx => ?_⟩
  · have hfit : s.role = .prx := hfits hmode _ hx
    exact nomatch hptx.symm.trans hfit
  · have hfit : s.role = .ptx := hfits hmode _ hx
    exact nomatch hprx.symm.trans hfit

/-- Settles O41: the step ends with the turnaround, which leaves a transmitter only where the radio's buffer is not empty. -/
theorem adhocTurnsAround : Obligations.AdhocTurnsAround := by
  intro s t hr hmode hp ht hq
  rw [takeEvent, elStep_of_ready hr, if_pos hp] at ht
  rcases endLoop_cases ht with ⟨_, hok⟩ | ⟨c, s', -, rfl⟩
  · obtain ⟨u, hu, rfl⟩ := ends_true_iff.1 (elIter_turnaround s) _ _ hok
    exact (iterTurnaround_of_empty (hu.mode.trans hmode) (hu.ready hr) hq).imp_right .inr
  · exact .inr (.inl (enterError_state c none s'))

end Sys2Proof.Machine
end

section
/-! EL_STOP (44 R229 to R231): the drain at a stop, its end and its poll limit; and who touches the radio (44 R225, 00 R6). -/

namespace Sys2Proof.Machine

section

variable {s t u : State}

/-! ### The end of a stop drain (44 R229, R230) -/

theorem pollLimitReached_iff : s.pollLimitReached = true ↔ ∃ l ∈ s.cfg.stopPollLimit, l ≤ s.stopPolls := by
  unfold State.pollLimitReached
  cases s.cfg.stopPollLimit <;> simp

theorem stopPoll_eq (s : State) :
    stopPoll s =
      if ∃ l ∈ s.cfg.stopPollLimit, l ≤ s.stopPolls + 1 then finalize s else { s with stopPolls := s.stopPolls + 1 } := by
  have hlimit := pollLimitReached_iff (s := { s with stopPolls := s.stopPolls + 1 })
  unfold stopPoll
  simp only [hlimit]
  rfl

/-- The state after the drain `u` is asked about its buffer, where it left nothing queued (44 R229). -/
def State.asked (u : State) : State :=
  if u.txq = [] then { u.drawn with rtrace := u.rtrace ++ [.txEmpty u.answer.flag] } else u

/-- EL_STOP after its drain: the stop finishes or counts a poll. -/
theorem elStop_of_drain (hu : txDrain (stopSwitch s) = .ok () u) :
    elStop s =
      .ok () (if (u.txq = [] ∧ u.answer.flag = true) ∨ ∃ l ∈ u.cfg.stopPollLimit, l ≤ u.stopPolls + 1 then finalize u.asked
        else { u.asked with stopPolls := u.stopPolls + 1 }) := by
  rw [elStop, hu, bind_ok]
  by_cases hq : u.txq = []
  · have hasked : u.asked = (radioTxEmpty u).2 := by rw [State.asked, if_pos hq, radioTxEmpty, drawn_traced]
    rw [if_pos (by simp [hq]), hasked]
    cases hflag : u.answer.flag with
    | true => simp [radioTxEmpty, hq, hflag]
    | false => simp [radioTxEmpty, hflag, stopPoll_eq]
  · rw [if_neg (by simpa using hq), State.asked, if_neg hq, stopPoll_eq]
    simp [hq]

/-! ### What the stop drain keeps -/

theorem loopFrame_of_txDrain (hr : txDrain s = .ok () u) : LoopFrame s u := by
  have hreach := loopFrame_txDrain (loopFrame_refl s)
  rwa [hr] at hreach

theorem stopSwitch_offLoop (s : State) : (stopSwitch s).offLoop = s.offLoop := by
  unfold stopSwitch
  split <;> rfl

/-- The switch and the drain of a stop keep the configuration and the poll count. -/
theorem offLoop_of_stopDrain (hr : txDrain (stopSwitch s) = .ok () u) : u.offLoop = s.offLoop :=
  (loopFrame_of_txDrain hr).rest.trans (stopSwitch_offLoop s)

theorem Consistent.stopDrain_ok (hs : Consistent s) (hstop : s.state = .stopping) : ∃ u, txDrain (stopSwitch s) = .ok () u := by
  have hlive : Live Consistent s := ⟨hs, by simp [hstop], by simp [hstop]⟩
  have hswitch : Live Consistent (stopSwitch s) := by
    unfold stopSwitch
    split
    · exact hlive.becomeTx hstop
    · exact hlive
  have hends := consistent_stepInvariant.ends_txDrain hswitch
  cases hr : txDrain (stopSwitch s) with
  | ok a u => exact ⟨u, rfl⟩
  | fatal c u =>
    rw [hr] at hends
    exact hends.elim
  | stop f =>
    rw [hr] at hends
    exact hends.elim

end

/-- Settles O45: the drain's end decides the step, and the frame of the drain gives the configuration it is decided in. -/
theorem stopDrainFinalizes : Obligations.StopDrainFinalizes := by
  intro s listening hstop hlistening
  obtain rfl : listening = stopSwitch s := hlistening
  refine ⟨fun hq => ?empty, fun hs => hs.stopDrain_ok hstop, fun u polled hu hpolled => ?step⟩
  case empty =>
    have hswitch : stopSwitch s = s := by simp [stopSwitch, hq]
    rw [hswitch, txDrain_of_empty hq]
  case step =>
    obtain rfl : polled = u.asked := hpolled
    have hcfg : u.cfg = s.cfg := (congrArg State.cfg (offLoop_of_stopDrain hu) :)
    have hasked : u.asked.cfg = s.cfg := by
      unfold State.asked
      split <;> simp [hcfg]
    rw [takeEvent, elStep_of_stop hstop, elStop_of_drain hu, hcfg, ← hasked]
    rfl

/-- Settles O46: the step does not fault, and where it does not finish it has counted a poll below the limit. -/
theorem stopEndsWithinPollLimit : Obligations.StopEndsWithinPollLimit := by
  intro s t l hs hstop hlimit ht
  obtain ⟨u, hu⟩ := hs.stopDrain_ok hstop
  have hkept := offLoop_of_stopDrain hu
  have hcfg : u.cfg = s.cfg := (congrArg State.cfg hkept :)
  have hpolls : u.stopPolls = s.stopPolls := (congrArg State.stopPolls hkept :)
  rcases elStep_of_stopping hstop ht with hstate | hstate | hstate
  · rw [takeEvent, elStep_of_stop hstop, elStop_of_drain hu, hcfg, hpolls, hlimit] at ht
    cases ht
    split at hstate
    · cases hstate
    · rename_i hif
      rw [if_neg hif]
      have hbelow : ¬ l ≤ s.stopPolls + 1 := fun hl => hif (.inr ⟨l, rfl, hl⟩)
      exact .inr ⟨hstate, rfl, Nat.lt_of_not_le hbelow⟩
  · exact .inl hstate
  · exact absurd hstate (hs.elStep_not_error ht)

section

variable {s t : State}

/-! ### Who touches the radio (44 R225) and the configuration (00 R6) -/

theorem environmentSame_refl (s : State) : EnvironmentSame s s := ⟨rfl, rfl, rfl, rfl, rfl, rfl, rfl, rfl⟩

/-- START may find the pool empty where the configuration is ill-formed; its fault touches nothing outside the block. -/
theorem environmentSame_start {mode : BitVec 2} (ht : exec (.start mode) s = .next t) : EnvironmentSame s t := by
  simp only [exec, execStart] at ht
  split at ht
  · cases ht
    exact environmentSame_refl s
  · rename_i m _
    split at ht
    · cases ht
      exact environmentSame_refl s
    · unfold startUp at ht
      rcases poolAlloc_cases .fill { s with state := .starting, mode := m }.poolDestroy.clearFlags with
        ⟨-, ha⟩ | ⟨h, -, ha⟩
      all_goals
        rw [ha] at ht
        cases ht
        exact environmentSame_refl s

theorem environmentSame_of_offLifecycle (h : t.offLifecycle = s.offLifecycle) : EnvironmentSame s t :=
  ⟨(congrArg State.cfg h :), (congrArg State.rtrace h :), (congrArg State.cur h :), (congrArg State.schedule h :),
    (congrArg State.ticks h :), (congrArg State.answers h :), (congrArg State.draws h :), (congrArg State.epoch h :)⟩

/-- No command touches the radio or the configuration. -/
theorem environmentSame_exec {i : Instr} (ht : exec i s = .next t) : EnvironmentSame s t := by
  cases i with
  | put b => exact (transmitCommandFrame _ s t (.inl ⟨b, rfl⟩) ht).1
  | write n => exact (transmitCommandFrame _ s t (.inr (.inl ⟨n, rfl⟩)) ht).1
  | flush => exact (transmitCommandFrame _ s t (.inr (.inr rfl)) ht).1
  | get => exact (receiveCommandFrame.1 _ s t (.inl rfl) ht).1
  | read maxN => exact (receiveCommandFrame.1 _ s t (.inr ⟨maxN, rfl⟩) ht).1
  | avail => exact (observeCommandFrame _ s t (.inl rfl) ht).1
  | stats sel => exact (observeCommandFrame _ s t (.inr (.inl ⟨sel, rfl⟩)) ht).1
  | status sel => exact (observeCommandFrame _ s t (.inr (.inr ⟨sel, rfl⟩)) ht).1
  | start mode => exact environmentSame_start ht
  | stop => exact environmentSame_of_offLifecycle (lifecycleKept_stop ht).1
  | reset => exact environmentSame_of_offLifecycle (lifecycleKept_reset ht).1

/-- The configuration is kept, no radio transaction is issued and no answer is drawn. -/
def RadioUntouched (s t : State) : Prop := t.cfg = s.cfg ∧ t.rtrace = s.rtrace ∧ t.answers = s.answers ∧ t.draws = s.draws

theorem radioUntouched_portStep {p : Nat} (ht : portStep p s = .next t) : RadioUntouched s t := by
  unfold portStep at ht
  split at ht
  · cases hd : decode (s.port p).cmd with
    | ok i =>
      rw [hd] at ht
      obtain ⟨hcfg, htrace, -, -, -, hanswers, hdraws, -⟩ := environmentSame_exec ht
      exact ⟨hcfg, htrace, hanswers, hdraws⟩
    | illegal r =>
      rw [hd] at ht
      cases ht
      exact ⟨rfl, rfl, rfl, rfl⟩
  · cases ht
    exact ⟨rfl, rfl, rfl, rfl⟩

theorem radioUntouched_hostStep {p : Nat} {w : Word} {payload : List Byte} (ht : hostStep p w payload s = .next t) :
    RadioUntouched s t := by
  unfold hostStep at ht
  split at ht
  · split at ht <;> cases ht
    exact ⟨rfl, rfl, rfl, rfl⟩
  · cases ht
    exact ⟨rfl, rfl, rfl, rfl⟩

theorem radioUntouched_irqStep (ht : irqStep s = .next t) : RadioUntouched s t := by
  cases ht
  split <;> exact ⟨rfl, rfl, rfl, rfl⟩

/-- EL_STOP keeps the configuration, where it ends and where it faults. -/
theorem cfg_elStop (s : State) : (elStop s).Reaches fun u => u.cfg = s.cfg := by
  have hpoll (u : State) : (stopPoll u).cfg = u.cfg := by
    rw [stopPoll_eq]
    split <;> rfl
  have hdrain : (txDrain (stopSwitch s)).Reaches fun u => u.cfg = s.cfg :=
    (loopFrame_txDrain (loopFrame_refl (stopSwitch s))).mono fun u hu =>
      (congrArg State.cfg (hu.rest.trans (stopSwitch_offLoop s)) :)
  refine hdrain.bind fun _ u hu => ?_
  have he : (radioTxEmpty u).2.cfg = s.cfg := by simpa [radioTxEmpty] using hu
  split
  · simp only [reaches_ok]
    split
    · exact he
    · exact (hpoll _).trans he
  · exact (hpoll u).trans hu

theorem cfg_elStep (ht : elStep s = .next t) : t.cfg = s.cfg := by
  have hend {r : Res Unit} (hr : r.Reaches fun u => u.cfg = s.cfg) (ht : r.endLoop = .next t) : t.cfg = s.cfg := by
    obtain ⟨u, hu, hend⟩ := hr.endLoop ht
    exact (congrArg State.cfg (eq_but_error hend) :).trans hu
  cases hst : s.state with
  | stopped | error =>
    rw [elStep_of_idle (by simp [hst])] at ht
    cases ht
    rfl
  | starting =>
    rw [elStep_of_starting hst] at ht
    refine hend ?_ ht
    unfold elStart
    cases s.mode <;> rfl
  | stopping =>
    rw [elStep_of_stop hst] at ht
    exact hend (cfg_elStop s) ht
  | receiving | transmitting =>
    obtain ⟨u, hu, hend⟩ := elStep_ready_frame (by simp [State.ready, hst]) ht
    have hcfg : u.cfg = s.cfg := (congrArg State.cfg (hu.rest.trans (offLoop_served s)) :)
    exact (congrArg State.cfg (eq_but_error hend) :).trans hcfg

end

/-- Settles O47: each command's frame leaves the radio alone, and each part of the loop the configuration. -/
theorem onlyLoopTouchesRadio : Obligations.OnlyLoopTouchesRadio := by
  intro e s t ht
  have hother (h : RadioUntouched s t) :
      t.cfg = s.cfg ∧ (e ≠ .el → t.rtrace = s.rtrace ∧ t.answers = s.answers ∧ t.draws = s.draws) :=
    ⟨h.1, fun _ => h.2⟩
  cases e with
  | port p => exact hother (radioUntouched_portStep ht)
  | el => exact ⟨cfg_elStep ht, fun h => absurd rfl h⟩
  | irq => exact hother (radioUntouched_irqStep ht)
  | host p w payload => exact hother (radioUntouched_hostStep ht)
  | rst =>
    cases ht
    exact hother ⟨rfl, rfl, rfl, rfl⟩

end Sys2Proof.Machine
end

section
/-! Refusals and ERROR: the interrupt pulse, the commands that find no state to run in, fail-fast in ERROR, and Error entry
(60 R261, R265, R266, R270). -/

namespace Sys2Proof.Machine

section

variable {s : State}

/-! ### Where the adapter is not Ready (60 R261, R270) -/

theorem irqStep_of_ready (hr : s.ready = true) : irqStep s = .next s.raiseIrq.countIrq := by
  simp [irqStep, hr]

theorem irqStep_of_not_ready (hr : s.ready = false) : irqStep s = .next s := by
  simp [irqStep, hr]

/-- The guard of every byte-stream command is true where the adapter is not Ready, so none is held. -/
theorem exec_byteStream_of_not_ready {i : Instr} (hr : s.ready = false) (hi : (Decoded.ok i).byteStream = true) :
    exec i s = .next (s.respond .notReady (if (Decoded.ok i).isWrite = true then toRval (s.port s.cur).done else 0) []) := by
  cases i with
  | put b => simp [exec, execPut, State.putGuard, hr, Decoded.isWrite]
  | write n => simp [exec, execWrite, State.writeGuard, hr, Decoded.isWrite]
  | flush => simp [exec, execFlush, State.flushGuard, hr, Decoded.isWrite]
  | get => simp [exec, execGet, State.getGuard, hr, Decoded.isWrite]
  | read maxN => simp [exec, execRead, State.readGuard, hr, Decoded.isWrite]
  | avail => simp [exec, execAvail, hr, Decoded.isWrite]
  | start mode => cases hi
  | stop => cases hi
  | reset => cases hi
  | stats sel => cases hi
  | status sel => cases hi

theorem exec_stop_of_not_ready (hr : s.ready = false) : exec .stop s = .next (s.respond .rejected 0 []) := by
  simp [exec, execStop, hr]

theorem ready_of_error (hs : s.state = .error) : s.ready = false := by
  simp [State.ready, hs]

/-! ### STATUS (30 R92, R98) -/

theorem stateWord_errCause (s : State) : s.stateWord.extractLsb' 6 3 = causeCode s.errCause := by
  apply BitVec.eq_of_toNat_eq
  have hstate := s.state.code.isLt
  have hmode := s.mode.code.isLt
  have hrole := s.role.code.isLt
  have hcause := (causeCode s.errCause).isLt
  rw [BitVec.extractLsb'_toNat, stateWord_toNat, Nat.shiftRight_eq_div_pow]
  omega

theorem statusValue_of_le (s : State) {sel : BitVec 3} (hsel : sel.toNat ≤ 5) : ∃ v, s.statusValue sel = some v := by
  have hcases : sel = 0 ∨ sel = 1 ∨ sel = 2 ∨ sel = 3 ∨ sel = 4 ∨ sel = 5 := by
    revert sel
    decide
  rcases hcases with rfl | rfl | rfl | rfl | rfl | rfl <;> exact ⟨_, rfl⟩

/-! ### Error entry (43 R183, 60 R265) -/

theorem enterError_ports_length (c : Cause) (port : Option Nat) (s : State) :
    (enterError c port s).ports.length = s.ports.length := by
  cases port <;> simp [enterError, State.respondOn]

theorem port_enterError_other {c : Cause} {port : Option Nat} {q : Nat} (hne : port ≠ some q) :
    (enterError c port s).port q = (s.port q).released := by
  have hreleased : (State.release { s with state := .error, errCause := some c } port).port q = (s.port q).released := by
    rw [release_port, if_neg hne]
    rfl
  cases port with
  | none => exact hreleased
  | some p =>
    have hqp : q ≠ p := fun h => hne (congrArg some h.symm)
    exact (port_withPort_other hqp).trans hreleased

end

/-! ### The statements -/

/-- Settles O31: the faulting port is kept by the release for its own FATAL, and every other port is released. -/
theorem errorEntry : Obligations.ErrorEntry := by
  intro c s port hp
  refine ⟨by rw [enterError_frame], enterError_ports_length c port s, fun q _ => ?_⟩
  by_cases hq : port = some q
  · subst hq
    rw [if_pos rfl]
    exact port_enterError_self (hp q rfl)
  · rw [if_neg hq, port_enterError_other hq, released_eq]

/-- Settles O9, by whether the adapter is Ready. -/
theorem irqAcceptedWhenReady : Obligations.IrqAcceptedWhenReady := by
  intro s
  by_cases hr : s.ready = true
  · rw [if_pos (ready_eq_true_iff.1 hr)]
    exact irqStep_of_ready hr
  · rw [if_neg (mt ready_eq_true_iff.2 hr)]
    exact irqStep_of_not_ready (Bool.eq_false_of_not_eq_true hr)

/-- Settles O24: a byte-stream command is answered before it does anything, and a lifecycle command looks at `STATE` first. -/
theorem refusedCommandsChangeNothing : Obligations.RefusedCommandsChangeNothing := by
  intro s
  refine ⟨fun hr => ?stream, fun m => exec_start_of_not_stopped (modeOf_code m), fun hrx htx => ?stop, exec_reset_of_not_error⟩
  case stream =>
    exact ⟨fun b => exec_byteStream_of_not_ready (i := .put b) hr rfl, fun n => exec_byteStream_of_not_ready (i := .write n) hr rfl,
      exec_byteStream_of_not_ready (i := .flush) hr rfl, exec_byteStream_of_not_ready (i := .get) hr rfl,
      fun m => exec_byteStream_of_not_ready (i := .read m) hr rfl, exec_byteStream_of_not_ready (i := .avail) hr rfl⟩
  case stop =>
    have hr : ¬ s.ready = true := fun hr => (ready_eq_true_iff.1 hr).elim hrx htx
    exact exec_stop_of_not_ready (Bool.eq_false_of_not_eq_true hr)

/-- Settles O30: ERROR is neither Ready nor STOPPED, so all but RESET and the observations are refused, and no step of the loop is
enabled. -/
theorem errorFailsFast : Obligations.ErrorFailsFast := by
  intro s hs
  have hr : s.ready = false := ready_of_error hs
  obtain ⟨hstream, hstart, hstop, -⟩ := refusedCommandsChangeNothing s
  obtain ⟨hput, hwrite, hflush, hget, hread, havail⟩ := hstream hr
  refine ⟨hput, hwrite, hflush, hget, hread, havail, fun m => hstart m (by simp [hs]), hstop (by simp [hs]) (by simp [hs]),
    ⟨_, exec_reset_of_error hs, rfl, rfl⟩, fun sel => ⟨s.counter sel, rfl⟩, fun sel hsel => ?status,
    fun p r hp hb hd => portStep_of_decode_illegal hp hb hd, elStep_of_idle (.inr hs), irqStep_of_not_ready hr, rfl⟩
  case status =>
    obtain ⟨v, hv⟩ := statusValue_of_le s hsel
    refine ⟨v, exec_status_of_value hv, ?_⟩
    rintro rfl
    obtain rfl : s.stateWord = v := Option.some.inj hv
    exact stateWord_errCause s

end Sys2Proof.Machine
end
